-- ==== Sys2Proof/Word.lean ====
section
/-! DEFINITION. The words the block moves (R90): symbols, operation words, sample elements, frame words. -/

namespace Sys2Proof

/-- Format SYM: the 8-bit code of a pattern symbol (R90, R91). -/
abbrev SymCode := BitVec 8

/-- Format OP: the 16-bit word of an operation, `op` in [4:0], zero in [7:5], `v` in [15:8] (R90). -/
abbrev OpWord := BitVec 16

/-- Format SAMPLE: a 16-bit two's-complement amplitude (R90, R94). -/
abbrev Elem := BitVec 16

/-- Format FRAME: one 32-bit stereo frame word (R90, R93). -/
abbrev FrameWord := BitVec 32

/-- The voice field of an OP word (R90). -/
abbrev VoiceField := BitVec 8

end Sys2Proof
end

