-- ==== Sys2Proof/Config.lean ====
section
/-! DEFINITION. The configuration `Cfg` of R6 (a parameter of every step, R20), the free values of what the
spec leaves open, and the one configuration `State.reset` carries. -/

namespace Sys2Proof

/-- The two agents that take steps (R12). -/
inductive Agent where
  | fillEngine
  | outputDevice
  deriving DecidableEq, Repr, Inhabited

/-- The static fields of one voice, `pan[v]`, `volume[v]`, `sample[v]` (R6, R27 to R29, R96). -/
structure VoiceCfg where
  pan    : Nat
  volume : Nat
  sample : Nat
  deriving DecidableEq, Repr

/-- The configuration record of R6. `N_VOICES`, `N_SAMPLES`, `LEN[k]`, `N_PATTERNS` and `LOOP_BARS` are the
lengths of the lists that hold the contents (log 18). `bpm`, `beatsPerBar` and `sampleRate` are used only by
R8 (log 25). -/
structure Cfg where
  /-- `BAR_LEN` -/
  barLen         : Nat
  /-- `SAMPLES_PER_TICK` -/
  samplesPerTick : Nat
  /-- `BPM` -/
  bpm            : Nat
  /-- `BEATS_PER_BAR` -/
  beatsPerBar    : Nat
  /-- `SAMPLE_RATE` -/
  sampleRate     : Nat
  /-- `EMPH_STEP` -/
  emphStep       : Nat
  /-- `PAN_MAX` -/
  panMax         : Nat
  /-- `OUT_SHIFT` -/
  outShift       : Nat
  /-- `N_SLOTS` -/
  nSlots         : Nat
  /-- `BUFFER_SIZE` -/
  bufferSize     : Nat
  /-- `ACC_W` (D6) -/
  accW           : Nat
  /-- `LEFT_HIGH` (R93, D7) -/
  leftHigh       : Bool
  /-- `STREAM_BEFORE_ADVANCE` (C1, U13); every rule of the spec is written for false -/
  streamBeforeAdvance : Bool
  /-- the static voice fields, in voice order -/
  voices         : List VoiceCfg
  /-- SAMPLE: the tables, in order (R61) -/
  samples        : List (List Elem)
  /-- PATTERN: grid, voice, tick (R62) -/
  patterns       : List (List (List SymCode))
  /-- SONG: the grid number of each bar (R63, R95) -/
  song           : List Nat
  deriving DecidableEq, Repr

/-- `N_VOICES` (R6). -/
def Cfg.nVoices (c : Cfg) : Nat := c.voices.length
/-- `N_SAMPLES` (R6). -/
def Cfg.nSamples (c : Cfg) : Nat := c.samples.length
/-- `N_PATTERNS` (R6). -/
def Cfg.nPatterns (c : Cfg) : Nat := c.patterns.length
/-- `LOOP_BARS` (R6, R63). -/
def Cfg.loopBars (c : Cfg) : Nat := c.song.length
/-- `VOL_MAX` (R6: fixed). -/
def volMax : Nat := 255

/-- The value of `accL` after the n-th RESET of a run, before it is narrowed to ACC_W bits: a free draw (R34,
R49, U4). DESIGN CHOICE, log 3. -/
opaque Config.freeAccL : Nat → Int

/-- The value of `accR` after the n-th RESET of a run, likewise (log 3). -/
opaque Config.freeAccR : Nat → Int

/-- What word a of RING holds when nothing has written it since the n-th RESET: a free draw (R49, R226, U4).
DESIGN CHOICE, log 4. -/
opaque Config.freeRingWord : Nat → Nat → FrameWord

/-- Which agent takes the n-th step that the outside world has not scheduled: the free choice of the step
relation (R47, R75, U6). DESIGN CHOICE, log 7. -/
opaque Config.schedule : Nat → Agent

/-- The configuration `State.reset` carries (DESIGN CHOICE, log 2): the defaults of R6 where it gives one; for each
OPEN parameter the least value R7 allows; blank grids, silent tables, voices of volume 0. `SAMPLE_RATE = 47`
is the least rate whose R8 quotient is at least 1. -/
def Config.device : Cfg where
  barLen := 72
  samplesPerTick := 1
  bpm := 155
  beatsPerBar := 4
  sampleRate := 47
  emphStep := 12
  panMax := 32
  outShift := 15
  nSlots := 4
  bufferSize := 1
  accW := 32
  leftHigh := true
  streamBeforeAdvance := false
  voices := List.replicate 6 { pan := 0, volume := 0, sample := 0 }
  samples := [[0, 0]]
  patterns := [List.replicate 6 (List.replicate 72 0x20)]
  song := [0]

end Sys2Proof
end

