-- ==== Sys2Proof/Machine/Arith.lean ====
section
/-! DEFINITION. The arithmetic of R9 and R193 (wrap, floor shift, sign extension, mask), the R8 quotient and the
register widths' `clog2`. -/

namespace Sys2Proof.Machine

/-- `wrap_W(x)`: the W-bit signed value congruent to x modulo 2^W (R9). -/
def wrapW (W : Nat) (x : Int) : Int := Int.bmod x (2 ^ W)

/-- `x >>a n = floor(x / 2^n)` (R9, K3); `/` on `Int` with a positive divisor is the floor. -/
def asr (x : Int) (n : Nat) : Int := x / 2 ^ n

/-- `v[15:0]` of a signed v: the low 16 bits of its two's complement (R9, K2). -/
def low16 (x : Int) : BitVec 16 := BitVec.ofInt 16 x

/-- `sext_16` of a sample element (R9, R94). -/
def sext16 (e : Elem) : Int := e.toInt

/-- `clog2(n)`: the least w with 2^w ≥ n, and at least 1 (R9). -/
def clog2 (n : Nat) : Nat :=
  max 1 (((List.range (n + 1)).find? fun w => n ≤ 2 ^ w).getD n)

/-- `SAMPLES_PER_TICK = floor((SAMPLE_RATE × 60 × BEATS_PER_BAR) / (BPM × BAR_LEN))`, one floor (R8, D19). -/
def samplesPerTickOf (sampleRate bpm beatsPerBar barLen : Nat) : Nat :=
  sampleRate * 60 * beatsPerBar / (bpm * barLen)

/-- The emphasis of a hit of a level (R170): `level × EMPH_STEP`, exact. -/
def emphasis (level emphStep : Nat) : Nat := level * emphStep

/-- `(x + 1) mod N`, the successor of a ring index (R97). -/
def nextSlot (nSlots x : Nat) : Nat := (x + 1) % nSlots

end Sys2Proof.Machine
end

