-- ==== Sys2Proof/Syntax.lean ====
section
/-! DEFINITION. The thirty rows of the table: the ten pattern symbols (R91) and the twenty operations (R100), the
commands that carry their encodings, and the names under which a command is rejected. -/

namespace Sys2Proof

/-- What the block can be made to do, one constructor per row of the table. A symbol's operand v is the grid row it
stands in (R62, R141: "Operand: v"); an operation's operand v is the field of its OP word (R90). -/
inductive Instr where
  | nohit (v : Nat)
  | hit1 (v : Nat)
  | hit2 (v : Nat)
  | hit3 (v : Nat)
  | hit4 (v : Nat)
  | hit5 (v : Nat)
  | hit6 (v : Nat)
  | hit7 (v : Nat)
  | hit8 (v : Nat)
  | hit9 (v : Nat)
  | reset
  | tickq
  | advance
  | trigscan
  | vfetch (v : VoiceField)
  | vstep (v : VoiceField)
  | gain (v : VoiceField)
  | panmul (v : VoiceField)
  | accclr
  | accadd
  | pack
  | mixv (v : VoiceField)
  | genframe
  | fillchk
  | fillfrm
  | fill
  | complete
  | devread
  | prefill
  | start
  deriving DecidableEq, Repr

/-- A command as it is written down: an OP word, or a symbol code with the grid row it stands in (the code has no
voice bits; log 12). -/
inductive Cmd where
  | op (w : OpWord)
  | sym (row : Nat) (code : SymCode)
  deriving DecidableEq, Repr

/-- Why a command names nothing. -/
inductive DecodeError where
  /-- a symbol code outside the alphabet (R101) -/
  | reservedSymbol
  /-- an OP word with bits [7:5] non-zero (R102) -/
  | zeroFieldNotZero
  /-- `op` 0x14 to 0x1F (R102) -/
  | reservedOp
  /-- `v` non-zero on an operation without a voice operand (R102) -/
  | strayVoice
  deriving DecidableEq, Repr

end Sys2Proof
end

