-- ==== Sys2Proof/Machine/State.lean ====
section
/-! DEFINITION. The state of the block (R20), the model's own fields beside it, the reasons a step can stop, and the
machine right after reset (R49). -/

namespace Sys2Proof.Machine

/-- The Timing State, the sequencer's position in its program text (R21 to R24). -/
structure Timing where
  bar          : Nat
  tickOfBar    : Nat
  sampleOfTick : Nat
  deriving DecidableEq, Repr

/-- One voice of the Voice Bank (R26 to R31). -/
structure Voice where
  pan    : Nat
  volume : Nat
  sample : Nat
  pos    : Nat
  emph   : Nat
  deriving DecidableEq, Repr

/-- The fill engine's control position (R44). -/
inductive FillState where
  | check
  | writing
  deriving DecidableEq, Repr

/-- RING: the written words by element index `s × BUFFER_SIZE + f` (R64, R66), in one canonical form, indices
strictly rising; an unlisted word has not been written since RESET (logs 4, 13). -/
abbrev Ring := List (Nat × FrameWord)

/-- The transient values of R35 and the results of the pure operations, as one operation of a trace hands them to the
next. The model's own (log 8). -/
structure Transient where
  /-- TICKQ's answer -/
  tick  : Bool
  /-- `s`, the element VFETCH returned -/
  elem  : Int
  /-- `gain`, what GAIN returned -/
  gain  : Nat
  /-- `pL`, the left product of PANMUL -/
  prodL : Int
  /-- `pR`, the right product of PANMUL -/
  prodR : Int
  /-- the word PACK and GENFRAME returned -/
  frame : FrameWord
  deriving DecidableEq, Repr

structure State where
  /-- the configuration, a parameter of every step that never changes (R20; log 1) -/
  cfg       : Cfg
  /-- the Timing State (R21 to R25) -/
  timing    : Timing
  /-- the Voice Bank, in voice order (R26) -/
  voices    : List Voice
  /-- the left accumulator, ACC_W bits signed (R34) -/
  accL      : Int
  /-- the right accumulator (R34) -/
  accR      : Int
  /-- the slot the Output Device is streaming (R36) -/
  playing   : Nat
  /-- the slot the fill engine writes next (R37) -/
  filling   : Nat
  /-- the Buffer Ring (R64) -/
  ring      : Ring
  /-- CHECK or WRITING (R44) -/
  fillState : FillState
  /-- frames already written into slot `filling` during the current fill (R44) -/
  frameIdx  : Nat
  /-- has the Output Device been started (R45) -/
  devActive : Bool
  /-- words of the current slot the device has read (R45) -/
  devRd     : Nat
  /-- the model's own: has PREFILL been taken since RESET (R223, R271; log 9) -/
  prefilled : Bool
  /-- the model's own: RESET operations taken, the argument of the free draws (log 3) -/
  resets    : Nat
  /-- the model's own: the transient values of R35 (log 8) -/
  tmp       : Transient
  /-- the model's own: the commands the outside world has scheduled, oldest first (log 6) -/
  cmds      : List Cmd
  /-- the model's own: agents the free schedule has picked so far (log 7) -/
  turn      : Nat
  /-- the model's own: how many steps of the Output Device fall into the gaps between the parts of the FILLs to come,
  one number a gap, the next gap first; the gaps beyond the list take none (R212; log 14) -/
  gaps      : List Nat
  /-- the output stream, the observation of the run, oldest first (R47, R228; log 15) -/
  out       : List FrameWord
  deriving DecidableEq, Repr

/-- The six steps of R75 that have an enabling condition. -/
inductive AgentStep where
  | fillchk
  | fillfrm
  | complete
  | devread
  | prefill
  | start
  deriving DecidableEq, Repr

/-- The four memories of R60. -/
inductive Space where
  | sample
  | pattern
  | song
  | ring
  deriving DecidableEq, Repr

/-- Why the machine stops. The block itself raises no exception (R240). -/
inductive Fault where
  /-- A step was scheduled while it is not enabled (R210, R211, R220, R222, R223, R226, R271): the model has no step.
  Raised by the six steps and FILL. Safe: the hardware takes no such step (log 10). -/
  | notEnabled (step : AgentStep)
  /-- A memory index out of range (R71, U2: no specified result, "a model has no step for it"). Raised by every
  memory access. Safe: unreachable from a well-formed configuration (log 11). -/
  | outOfRange (space : Space)
  /-- A voice number that names no voice of the Voice Bank (R10, R102). Raised by every operation with a voice
  operand. Safe: unreachable from a well-formed configuration (log 11). -/
  | noSuchVoice (v : Nat)
  deriving DecidableEq, Repr

/-- Why the machine gives a command no meaning. -/
inductive Refusal where
  /-- An instruction not modelled yet; no arm of this model answers it. Safe. -/
  | notModelled (mnemonic : String)
  /-- The configuration is ill-formed (R7, U1). Raised by `step`. Safe. -/
  | illFormedConfig
  /-- The command is reserved (R101, R102). Raised by `step`'s fetch. Safe. -/
  | reservedCommand (e : DecodeError)
  /-- The command's voice operand names no voice (R102). Raised by `step`'s fetch. Safe. -/
  | reservedVoice
  /-- A grid holds a code outside the alphabet (R101, U3). Raised by TRIGSCAN and what contains it. Safe: no
  well-formed configuration has one. -/
  | reservedSymbol (code : SymCode)
  deriving DecidableEq, Repr

/-- A voice as RESET leaves it (R49): static fields from `Cfg`, idle, emphasis 0. -/
def Voice.ofCfg (v : VoiceCfg) : Voice :=
  { pan := v.pan, volume := v.volume, sample := v.sample, pos := 0, emph := 0 }

/-- The canonical form of RING: indices strictly rising (log 13). -/
abbrev Ring.wf (r : Ring) : Prop := r.Pairwise fun a b => a.1 < b.1

/-- The transients before any operation (DESIGN CHOICE, log 8). -/
def Transient.initial : Transient :=
  { tick := false, elem := 0, gain := 0, prodL := 0, prodR := 0, frame := 0 }

/-- The machine right after reset with a given configuration: the table of R49 (D9, D24, log 26); accumulators a free
draw (log 3); RING unwritten (log 4). -/
def State.resetWith (c : Cfg) : State where
  cfg := c
  timing := { bar := 0, tickOfBar := 0, sampleOfTick := 0 }
  voices := c.voices.map Voice.ofCfg
  accL := wrapW c.accW (Config.freeAccL 0)
  accR := wrapW c.accW (Config.freeAccR 0)
  playing := c.nSlots - 1
  filling := 0
  ring := []
  fillState := .check
  frameIdx := 0
  devActive := false
  devRd := 0
  prefilled := false
  resets := 0
  tmp := Transient.initial
  cmds := []
  turn := 0
  gaps := []
  out := []

/-- The machine right after reset (R49), with the configuration of log 2. -/
def State.reset : State := State.resetWith Config.device

end Sys2Proof.Machine
end

