-- ==== Sys2Proof/Machine/Operands.lean ====
section
/-! DEFINITION. The operand forms: elements of the read-only memories by element index (R60 to R63, R71), the assembly
of an emphasis level (R92), and the indices of RING (R66). -/

namespace Sys2Proof.Machine

/-- `MemRead(SONG, b)` (R63); none where b is out of range. -/
def readSong (c : Cfg) (b : Nat) : Option Nat := c.song[b]?

/-- `MemRead(PATTERN, p, v, t)` (R62); none where an index is out of range. -/
def readPattern (c : Cfg) (p v t : Nat) : Option SymCode :=
  (c.patterns[p]?).bind fun grid => (grid[v]?).bind fun row => row[t]?

/-- `MemRead(SAMPLE, k, i)` (R61); none where an index is out of range. -/
def readSample (c : Cfg) (k i : Nat) : Option Elem := (c.samples[k]?).bind fun table => table[i]?

/-- `LEN[k]` (R6); none where k names no table. -/
def tableLen (c : Cfg) (k : Nat) : Option Nat := (c.samples[k]?).map List.length

/-- The level of a digit symbol, `code − 0x31` (R92). -/
def levelOf (code : SymCode) : Nat := code.toNat - 0x31

/-- The element index of word (s, f) of RING (R66, D15). -/
def ringIndex (c : Cfg) (slot frame : Nat) : Nat := slot * c.bufferSize + frame

/-- Is (s, f) a word of RING (R60). -/
def ringInRange (c : Cfg) (slot frame : Nat) : Bool :=
  decide (slot < c.nSlots) && decide (frame < c.bufferSize)

/-- The slot DEVREAD reads: `playing` (R226, D8); with the switch STREAM_BEFORE_ADVANCE, `(playing − 1) mod N` (C1,
U13; log 16). -/
def streamSlot (s : State) : Nat :=
  if s.cfg.streamBeforeAdvance then (s.playing + s.cfg.nSlots - 1) % s.cfg.nSlots else s.playing

end Sys2Proof.Machine
end

