-- ==== Sys2Proof/Machine/Flags.lean ====
section
/-! DEFINITION. The predicates computed from state where they are used (R40: the block stores no flag), the pending
completion (R46) and the enabling conditions of the six steps. -/

namespace Sys2Proof.Machine

/-- `tickStart`: `sampleOfTick == 0` (R40, R120). -/
def tickStart (s : State) : Bool := s.timing.sampleOfTick == 0

/-- `idle(v)`: `pos[v] == 0` (R40). -/
def Voice.idle (v : Voice) : Bool := v.pos == 0

/-- `ringFull`: `filling == playing` (R40, R214). -/
def ringFull (s : State) : Bool := s.filling == s.playing

/-- `sample[v] < N_SAMPLES`: the voice's sample selects a valid library entry (R29, R188). -/
def sampleValid (c : Cfg) (v : Voice) : Bool := decide (v.sample < c.nSamples)

/-- The completion signal is pending (R46, R243). -/
def completionPending (s : State) : Bool := s.devActive && s.devRd == s.cfg.bufferSize

/-- When a step is enabled: FILLCHK R210 with R271, FILLFRM R211 with R271, COMPLETE R220, DEVREAD R226, PREFILL R222
(after RESET, before START, once), START R223 (log 9). -/
def enabled (s : State) : AgentStep → Bool
  | .fillchk => s.prefilled && s.fillState == .check
  | .fillfrm => s.prefilled && s.fillState == .writing
  | .complete => completionPending s
  | .devread => s.devActive && decide (s.devRd < s.cfg.bufferSize)
  | .prefill => !s.prefilled && !s.devActive
  | .start => s.prefilled && !s.devActive

end Sys2Proof.Machine
end

