-- ==== Sys2Proof/Machine/Ops.lean ====
section
/-! DEFINITION. The shared operations over state: sequencing, one update function per group of fields, the Voice Bank,
RING, and the completion event. -/

namespace Sys2Proof.Machine

/-- What an operation answers. -/
abbrev Result := Host.Outcome State Fault Refusal

/-- Sequential `;` (R10): the second part runs where the first answers a next state. -/
def andThen (r : Result) (k : State → Result) : Result :=
  match r with
  | .next s => k s
  | .fault e => .fault e
  | .refused e => .refused e

/-- `for x in xs`, in order (R10). -/
def forEach : List Nat → (Nat → State → Result) → State → Result
  | [], _, s => .next s
  | x :: xs, body, s => andThen (body x s) (forEach xs body)

/-- A step of an agent runs only where it is enabled (R75; log 10). -/
def guarded (step : AgentStep) (s : State) (body : State → Result) : Result :=
  if enabled s step then body s else .fault (.notEnabled step)

/-- Writes the Timing State. -/
def State.setTiming (s : State) (x : Timing) : State := { s with timing := x }
/-- Writes the Voice Bank. -/
def State.setVoices (s : State) (x : List Voice) : State := { s with voices := x }
/-- Writes both accumulators. -/
def State.setAcc (s : State) (l r : Int) : State := { s with accL := l, accR := r }
/-- Writes RING. -/
def State.setRing (s : State) (x : Ring) : State := { s with ring := x }
/-- Writes `filling` (R37). -/
def State.setFilling (s : State) (x : Nat) : State := { s with filling := x }
/-- Writes the fill micro-state (R44). -/
def State.setFill (s : State) (x : FillState) (idx : Nat) : State :=
  { s with fillState := x, frameIdx := idx }
/-- Writes `playing` and `devRd` (R36, R45). -/
def State.setCursor (s : State) (playing devRd : Nat) : State :=
  { s with playing := playing, devRd := devRd }
/-- Writes `devActive` (R45). -/
def State.setDevActive (s : State) (x : Bool) : State := { s with devActive := x }
/-- Writes the boot history (log 9). -/
def State.setPrefilled (s : State) (x : Bool) : State := { s with prefilled := x }
/-- Writes the transients (log 8). -/
def State.setTmp (s : State) (x : Transient) : State := { s with tmp := x }
/-- Appends a word to the output stream (R226, R228). -/
def State.emit (s : State) (w : FrameWord) : State := { s with out := s.out ++ [w] }
/-- Writes the schedule's queue and counter (logs 6, 7). -/
def State.setSchedule (s : State) (cmds : List Cmd) (turn : Nat) : State :=
  { s with cmds := cmds, turn := turn }
/-- Writes the gaps still to come (log 14). -/
def State.setGaps (s : State) (x : List Nat) : State := { s with gaps := x }

/-- Reads voice v (R10); a number that names no voice has no step (log 11). -/
def withVoice (v : Nat) (s : State) (k : Voice → Result) : Result :=
  match s.voices[v]? with
  | some x => k x
  | none => .fault (.noSuchVoice v)

/-- Writes voice v. -/
def State.setVoice (s : State) (v : Nat) (x : Voice) : State := s.setVoices (s.voices.set v x)

/-- The word RING lists at an element index, none if nothing has written it since RESET. -/
def Ring.read : Ring → Nat → Option FrameWord
  | [], _ => none
  | (b, w) :: rest, a => if b = a then some w else if b < a then Ring.read rest a else none

/-- Stores a word at an element index, keeping the indices strictly rising. -/
def Ring.write : Ring → Nat → FrameWord → Ring
  | [], a, w => [(a, w)]
  | (b, x) :: rest, a, w =>
    if a < b then (a, w) :: (b, x) :: rest
    else if a = b then (a, w) :: rest
    else (b, x) :: Ring.write rest a w

/-- What word a of RING reads as: the word written there, or the free draw of this reset (U4; log 4). -/
def ringWord (s : State) (a : Nat) : FrameWord :=
  (s.ring.read a).getD (Config.freeRingWord s.resets a)

/-- `MemRead(RING, slot, frame)` (R10, R67): one whole word. -/
def loadFrame (slot frame : Nat) (s : State) (k : FrameWord → Result) : Result :=
  if ringInRange s.cfg slot frame then k (ringWord s (ringIndex s.cfg slot frame))
  else .fault (.outOfRange .ring)

/-- `MemWrite(RING, slot, frame, w)` (R10, R67): one whole word. -/
def storeFrame (slot frame : Nat) (w : FrameWord) (s : State) : Result :=
  if ringInRange s.cfg slot frame then .next (s.setRing (s.ring.write (ringIndex s.cfg slot frame) w))
  else .fault (.outOfRange .ring)

/-- The block's one event, the completion handler's action (R220, R242, R245): `playing` advances and the device is
re-armed at word 0 of the new slot. It saves no state, changes no mode and has no return operation (R245, R246).
START is its first invocation, made by the boot sequence (R223, D11). -/
def rearmDevice (s : State) : State := s.setCursor (nextSlot s.cfg.nSlots s.playing) 0

end Sys2Proof.Machine
end

