-- ==== Sys2Proof/Machine/GainPan.lean ====
section
/-! DEFINITION. The emphasis gain multiplier: GAIN and PANMUL (R170 to R175). -/

namespace Sys2Proof.Machine

/-- `emph[v] + volume[v]`, exact (R171). -/
def Voice.gain (x : Voice) : Nat := x.emph + x.volume

/-- The left product `g × s × pan[v]`, exact (R172, R175). -/
def panLeft (x : Voice) (g : Nat) (e : Int) : Int := g * e * x.pan

/-- The right product `g × s × (PAN_MAX − pan[v])`, exact (R172). -/
def panRight (c : Cfg) (x : Voice) (g : Nat) (e : Int) : Int := g * e * ((c.panMax : Int) - x.pan)

/-- GAIN (R171): the transient `gain` holds the sum; idle voices have the same gain as playing ones. -/
def voiceGain (v : Nat) (s : State) : Result :=
  withVoice v s fun x => .next (s.setTmp { s.tmp with gain := x.gain })

/-- PANMUL (R172), of the gain GAIN returned and the element VFETCH returned. -/
def panMul (v : Nat) (s : State) : Result :=
  withVoice v s fun x =>
    .next (s.setTmp { s.tmp with prodL := panLeft x s.tmp.gain s.tmp.elem,
                                 prodR := panRight s.cfg x s.tmp.gain s.tmp.elem })

/-- GAIN (R171). -/
def execGain (v : VoiceField) (s : State) : Result := voiceGain v.toNat s
/-- PANMUL (R172). -/
def execPanmul (v : VoiceField) (s : State) : Result := panMul v.toNat s

end Sys2Proof.Machine
end

