-- ==== Sys2Proof/Machine/TimingFsm.lean ====
section
/-! DEFINITION. The Timing State Machine: TICKQ and ADVANCE (R120, R121). -/

namespace Sys2Proof.Machine

/-- TICKQ (R120): its answer is the transient `tick`; nothing else is written. -/
def tickQuery (s : State) : State := s.setTmp { s.tmp with tick := tickStart s }

/-- The next position of the sequencer (R121). -/
def Timing.advance (c : Cfg) (t : Timing) : Timing :=
  if t.sampleOfTick + 1 = c.samplesPerTick then
    if t.tickOfBar + 1 = c.barLen then
      if t.bar + 1 = c.loopBars then { bar := 0, tickOfBar := 0, sampleOfTick := 0 }
      else { bar := t.bar + 1, tickOfBar := 0, sampleOfTick := 0 }
    else { t with tickOfBar := t.tickOfBar + 1, sampleOfTick := 0 }
  else { t with sampleOfTick := t.sampleOfTick + 1 }

/-- ADVANCE (R121): reads and writes only the Timing State. -/
def advance (s : State) : State := s.setTiming (s.timing.advance s.cfg)

/-- TICKQ (R120). -/
def execTickq (s : State) : Result := .next (tickQuery s)
/-- ADVANCE (R121). -/
def execAdvance (s : State) : Result := .next (advance s)

end Sys2Proof.Machine
end

