-- ==== Sys2Proof/Machine/Symbols.lean ====
section
/-! DEFINITION. Executing a pattern symbol for a voice: NOHIT and HIT1 to HIT9 (R140 to R150). -/

namespace Sys2Proof.Machine

/-- A digit symbol of a level (R140): `pos[v] <- 1; emph[v] <- level × EMPH_STEP`, whatever the voice was doing. -/
def trigger (v level : Nat) (s : State) : Result :=
  withVoice v s fun x => .next (s.setVoice v { x with pos := 1, emph := emphasis level s.cfg.emphStep })

/-- `EXEC(v, sym)` (R140); a reserved code has no meaning (R101). -/
def execSymbol (v : Nat) (code : SymCode) (s : State) : Result :=
  if code = 0x20 then .next s
  else if 0x31 ≤ code.toNat ∧ code.toNat ≤ 0x39 then trigger v (levelOf code) s
  else .refused (.reservedSymbol code)

/-- NOHIT (R141): nothing changes, whether the voice is idle or playing. -/
def execNohit (_v : Nat) (s : State) : Result := .next s
/-- HIT1 (R142). -/
def execHit1 (v : Nat) (s : State) : Result := trigger v 0 s
/-- HIT2 (R143). -/
def execHit2 (v : Nat) (s : State) : Result := trigger v 1 s
/-- HIT3 (R144). -/
def execHit3 (v : Nat) (s : State) : Result := trigger v 2 s
/-- HIT4 (R145). -/
def execHit4 (v : Nat) (s : State) : Result := trigger v 3 s
/-- HIT5 (R146). -/
def execHit5 (v : Nat) (s : State) : Result := trigger v 4 s
/-- HIT6 (R147). -/
def execHit6 (v : Nat) (s : State) : Result := trigger v 5 s
/-- HIT7 (R148). -/
def execHit7 (v : Nat) (s : State) : Result := trigger v 6 s
/-- HIT8 (R149). -/
def execHit8 (v : Nat) (s : State) : Result := trigger v 7 s
/-- HIT9 (R150). -/
def execHit9 (v : Nat) (s : State) : Result := trigger v 8 s

end Sys2Proof.Machine
end

