-- ==== Sys2Proof/Machine/VoicePlayback.lean ====
section
/-! DEFINITION. The voice playback state machine: TRIGSCAN, VFETCH, VSTEP (R151 to R153). -/

namespace Sys2Proof.Machine

/-- One turn of TRIGSCAN's loop (R151): the symbol of grid p at (v, tickOfBar) is executed for voice v. -/
def scanVoice (p v : Nat) (s : State) : Result :=
  match readPattern s.cfg p v s.timing.tickOfBar with
  | some code => execSymbol v code s
  | none => .fault (.outOfRange .pattern)

/-- TRIGSCAN (R151): the column of the grid SONG names for this bar, voices ascending (D20). -/
def trigScan (s : State) : Result :=
  match readSong s.cfg s.timing.bar with
  | some p => forEach (List.range s.cfg.nVoices) (scanVoice p) s
  | none => .fault (.outOfRange .song)

/-- VFETCH (R152): the element at the voice's read offset, idle voices too (R155); the transient `elem` holds it. -/
def voiceFetch (v : Nat) (s : State) : Result :=
  withVoice v s fun x =>
    match readSample s.cfg x.sample x.pos with
    | some e => .next (s.setTmp { s.tmp with elem := sext16 e })
    | none => .fault (.outOfRange .sample)

/-- VSTEP (R153): an idle voice stays; a playing one advances and wraps to idle at its table's length. -/
def voiceStep (v : Nat) (s : State) : Result :=
  withVoice v s fun x =>
    if x.idle then .next s
    else match tableLen s.cfg x.sample with
      | some len => .next (s.setVoice v { x with pos := if x.pos + 1 = len then 0 else x.pos + 1 })
      | none => .fault (.outOfRange .sample)

/-- TRIGSCAN (R151). -/
def execTrigscan (s : State) : Result := trigScan s
/-- VFETCH (R152). -/
def execVfetch (v : VoiceField) (s : State) : Result := voiceFetch v.toNat s
/-- VSTEP (R153). -/
def execVstep (v : VoiceField) (s : State) : Result := voiceStep v.toNat s

end Sys2Proof.Machine
end

