-- ==== Sys2Proof/Machine/Mixer.lean ====
section
/-! DEFINITION. The sample mixer accumulator: ACCCLR, ACCADD, PACK, MIXV, GENFRAME (R185 to R189). -/

namespace Sys2Proof.Machine

/-- ACCCLR (R185). -/
def accClear (s : State) : State := s.setAcc 0 0

/-- ACCADD (R186) of the products PANMUL returned; each sum wraps at ACC_W. -/
def accAdd (s : State) : State :=
  s.setAcc (wrapW s.cfg.accW (s.accL + s.tmp.prodL)) (wrapW s.cfg.accW (s.accR + s.tmp.prodR))

/-- The 16-bit channel value of an accumulator: `(acc >>a OUT_SHIFT)[15:0]` (R187). -/
def channel (c : Cfg) (acc : Int) : BitVec 16 := low16 (asr acc c.outShift)

/-- The frame word of a left and a right channel value: left high, unless LEFT_HIGH is false (R93, D7). -/
def frameOf (c : Cfg) (l r : BitVec 16) : FrameWord := if c.leftHigh then l ++ r else r ++ l

/-- PACK (R187): the transient `frame` holds the word; no saturation. -/
def packFrame (s : State) : State :=
  s.setTmp { s.tmp with frame := frameOf s.cfg (channel s.cfg s.accL) (channel s.cfg s.accR) }

/-- MIXV (R188): fetch, step, gain, pan, accumulate; a voice whose sample is invalid is skipped whole (D13). -/
def mixVoice (v : Nat) (s : State) : Result :=
  withVoice v s fun x =>
    if sampleValid s.cfg x then
      andThen (voiceFetch v s) fun s1 =>
      andThen (voiceStep v s1) fun s2 =>
      andThen (voiceGain v s2) fun s3 =>
      andThen (panMul v s3) fun s4 =>
      .next (accAdd s4)
    else .next s

/-- GENFRAME (R189): trigger at a tick start, clear, mix the voices ascending (D20), pack. -/
def genFrame (s : State) : Result :=
  let s1 := tickQuery s
  andThen (if s1.tmp.tick then trigScan s1 else .next s1) fun s2 =>
  andThen (forEach (List.range s.cfg.nVoices) mixVoice (accClear s2)) fun s3 =>
  .next (packFrame s3)

/-- ACCCLR (R185). -/
def execAccclr (s : State) : Result := .next (accClear s)
/-- ACCADD (R186). -/
def execAccadd (s : State) : Result := .next (accAdd s)
/-- PACK (R187). -/
def execPack (s : State) : Result := .next (packFrame s)
/-- MIXV (R188). -/
def execMixv (v : VoiceField) (s : State) : Result := mixVoice v.toNat s
/-- GENFRAME (R189). -/
def execGenframe (s : State) : Result := genFrame s

end Sys2Proof.Machine
end

