-- ==== Sys2Proof/Machine/RingControl.lean ====
section
/-! DEFINITION. The dual-index ring buffer controller: FILLCHK, FILLFRM, FILL, COMPLETE, DEVREAD, PREFILL, START (R210 to
R232), and RESET (R270). -/

namespace Sys2Proof.Machine

/-- FILLCHK (R210): a no-op when the ring is full, else the fill begins. -/
def fillCheck (s : State) : Result :=
  guarded .fillchk s fun s => if ringFull s then .next s else .next (s.setFill .writing 0)

/-- One generated frame stored at (slot `filling`, frame f), then ADVANCE: the body FILLFRM and PREFILL share (R211,
R222). -/
def produceFrame (f : Nat) (s : State) : Result :=
  andThen (genFrame s) fun s1 =>
  andThen (storeFrame s1.filling f s1.tmp.frame s1) fun s2 =>
  .next (advance s2)

/-- The fill micro-state after a frame (R211): at the last frame of the slot `filling` advances and the engine returns
to CHECK. -/
def countFrame (s : State) : State :=
  if s.frameIdx + 1 = s.cfg.bufferSize then
    (s.setFilling (nextSlot s.cfg.nSlots s.filling)).setFill .check 0
  else s.setFill s.fillState (s.frameIdx + 1)

/-- FILLFRM (R211): it does not read `playing` (R231). -/
def fillFrame (s : State) : Result :=
  guarded .fillfrm s fun s => andThen (produceFrame s.frameIdx s) fun s1 => .next (countFrame s1)

/-- One slot of PREFILL's outer loop (R222). -/
def prefillSlot (s : State) : Result :=
  andThen (forEach (List.range s.cfg.bufferSize) produceFrame s) fun s1 =>
  .next (s1.setFilling (nextSlot s1.cfg.nSlots s1.filling))

/-- PREFILL (R222): all N slots, without the check of FILLCHK (D10). -/
def prefillRing (s : State) : Result :=
  guarded .prefill s fun s =>
  andThen (forEach (List.range s.cfg.nSlots) (fun _ => prefillSlot) s) fun s1 =>
  .next (s1.setPrefilled true)

/-- START (R223): the handler's action made by the boot sequence, and the device is active. -/
def startDevice (s : State) : Result :=
  guarded .start s fun s => .next ((rearmDevice s).setDevActive true)

/-- COMPLETE (R220). -/
def completeSlot (s : State) : Result :=
  guarded .complete s fun s => .next (rearmDevice s)

/-- DEVREAD (R226): the word at the device's cursor is emitted and the cursor moves on. -/
def deviceRead (s : State) : Result :=
  guarded .devread s fun s =>
  loadFrame (streamSlot s) s.devRd s fun w => .next ((s.setCursor s.playing (s.devRd + 1)).emit w)

/-- The Output Device's next step: COMPLETE when the completion is pending, DEVREAD otherwise; none before START (R227,
R283). -/
def deviceTurn (s : State) : Result :=
  if s.devActive then (if completionPending s then completeSlot s else deviceRead s) else .next s

/-- A gap between two parts of FILL, into which steps of the Output Device may fall (R212): as many as the first number
of `gaps` says, none where the list has ended (log 14). -/
def deviceGap (s : State) : Result :=
  match s.gaps with
  | [] => .next s
  | n :: rest => forEach (List.range n) (fun _ => deviceTurn) (s.setGaps rest)

/-- A gap and the FILLFRM after it. -/
def gapThenFrame (s : State) : Result := andThen (deviceGap s) fillFrame

/-- FILL (R212): FILLCHK, and if the check passed BUFFER_SIZE times FILLFRM, with a gap before each. -/
def fillSlot (s : State) : Result :=
  andThen (fillCheck s) fun s1 =>
  if s1.fillState = .writing then forEach (List.range s1.cfg.bufferSize) (fun _ => gapThenFrame) s1
  else .next s1

/-- RESET (R270): the table of R49; the accumulators and RING become the free draws of the new reset (logs 3, 4); the
outside world's schedule, the transients and what has been emitted stay (logs 15, 23). -/
def resetBlock (s : State) : State :=
  { s with
    timing := { bar := 0, tickOfBar := 0, sampleOfTick := 0 }
    voices := s.cfg.voices.map Voice.ofCfg
    accL := wrapW s.cfg.accW (Config.freeAccL (s.resets + 1))
    accR := wrapW s.cfg.accW (Config.freeAccR (s.resets + 1))
    playing := s.cfg.nSlots - 1
    filling := 0
    ring := []
    fillState := .check
    frameIdx := 0
    devActive := false
    devRd := 0
    prefilled := false
    resets := s.resets + 1 }

/-- FILLCHK (R210). -/
def execFillchk (s : State) : Result := fillCheck s
/-- FILLFRM (R211). -/
def execFillfrm (s : State) : Result := fillFrame s
/-- FILL (R212). -/
def execFill (s : State) : Result := fillSlot s
/-- COMPLETE (R220). -/
def execComplete (s : State) : Result := completeSlot s
/-- DEVREAD (R226). -/
def execDevread (s : State) : Result := deviceRead s
/-- PREFILL (R222). -/
def execPrefill (s : State) : Result := prefillRing s
/-- START (R223). -/
def execStart (s : State) : Result := startDevice s
/-- RESET (R270). -/
def execReset (s : State) : Result := .next (resetBlock s)

end Sys2Proof.Machine
end

