-- ==== Sys2Proof/Machine/Dispatch.lean ====
section
/-! DEFINITION. The meaning of every instruction, one arm per constructor. -/

namespace Sys2Proof.Machine

def exec (i : Instr) (s : State) : Host.Outcome State Fault Refusal :=
  match i with
  | .nohit v => Sys2Proof.Machine.execNohit v s
  | .hit1 v => Sys2Proof.Machine.execHit1 v s
  | .hit2 v => Sys2Proof.Machine.execHit2 v s
  | .hit3 v => Sys2Proof.Machine.execHit3 v s
  | .hit4 v => Sys2Proof.Machine.execHit4 v s
  | .hit5 v => Sys2Proof.Machine.execHit5 v s
  | .hit6 v => Sys2Proof.Machine.execHit6 v s
  | .hit7 v => Sys2Proof.Machine.execHit7 v s
  | .hit8 v => Sys2Proof.Machine.execHit8 v s
  | .hit9 v => Sys2Proof.Machine.execHit9 v s
  | .reset => Sys2Proof.Machine.execReset s
  | .tickq => Sys2Proof.Machine.execTickq s
  | .advance => Sys2Proof.Machine.execAdvance s
  | .trigscan => Sys2Proof.Machine.execTrigscan s
  | .vfetch v => Sys2Proof.Machine.execVfetch v s
  | .vstep v => Sys2Proof.Machine.execVstep v s
  | .gain v => Sys2Proof.Machine.execGain v s
  | .panmul v => Sys2Proof.Machine.execPanmul v s
  | .accclr => Sys2Proof.Machine.execAccclr s
  | .accadd => Sys2Proof.Machine.execAccadd s
  | .pack => Sys2Proof.Machine.execPack s
  | .mixv v => Sys2Proof.Machine.execMixv v s
  | .genframe => Sys2Proof.Machine.execGenframe s
  | .fillchk => Sys2Proof.Machine.execFillchk s
  | .fillfrm => Sys2Proof.Machine.execFillfrm s
  | .fill => Sys2Proof.Machine.execFill s
  | .complete => Sys2Proof.Machine.execComplete s
  | .devread => Sys2Proof.Machine.execDevread s
  | .prefill => Sys2Proof.Machine.execPrefill s
  | .start => Sys2Proof.Machine.execStart s

end Sys2Proof.Machine
end

