-- ==== Sys2Proof/WellFormed.lean ====
section
/-! DEFINITION. Well-formed configurations (R7: every constraint in the last column of R6's table) and well-formed
instructions (R102: the voice operand names a voice). -/

namespace Sys2Proof

/-- The alphabet of R91: blank 0x20 and the digits 0x31 to 0x39. -/
def legalSymbol (code : SymCode) : Bool :=
  code == 0x20 || (decide (0x31 ≤ code.toNat) && decide (code.toNat ≤ 0x39))

/-- The constraints of R6 on the counts and constants; `N_SLOTS ≥ 3` as R7 states it (log 17). -/
def Cfg.constantsOk (c : Cfg) : Bool :=
  decide (1 ≤ c.nVoices) && (decide (1 ≤ c.barLen) && (decide (1 ≤ c.loopBars) && (decide (1 ≤ c.nPatterns)
    && (decide (1 ≤ c.nSamples) && (decide (1 ≤ c.samplesPerTick) && (decide (1 ≤ c.panMax)
    && (decide (c.outShift + 16 ≤ c.accW) && (decide (3 ≤ c.nSlots) && decide (1 ≤ c.bufferSize)))))))))

/-- `LEN[k] ≥ 2` for every table (R6, D14). -/
def Cfg.samplesOk (c : Cfg) : Bool := c.samples.all fun t => decide (2 ≤ t.length)

/-- `pan ≤ PAN_MAX`, `volume ≤ 255`, `sample < N_SAMPLES` for every voice (R6). -/
def Cfg.voicesOk (c : Cfg) : Bool :=
  c.voices.all fun v =>
    decide (v.pan ≤ c.panMax) && (decide (v.volume ≤ volMax) && decide (v.sample < c.nSamples))

/-- Every grid has N_VOICES rows of BAR_LEN symbols of the alphabet (R6, R62, U3). -/
def Cfg.patternsOk (c : Cfg) : Bool :=
  c.patterns.all fun g =>
    g.length == c.nVoices && g.all fun row => row.length == c.barLen && row.all legalSymbol

/-- Every bar names a grid (R6, R95). -/
def Cfg.songOk (c : Cfg) : Bool := c.song.all fun p => decide (p < c.nPatterns)

/-- A well-formed configuration (R7). -/
def Cfg.wf (c : Cfg) : Bool :=
  c.constantsOk && (c.samplesOk && (c.voicesOk && (c.patternsOk && c.songOk)))

/-- The instruction's voice operand names one of `nVoices` voices (R102); the others have no operand to check. -/
def Instr.wf (nVoices : Nat) : Instr → Bool
  | .nohit v => decide (v < nVoices)
  | .hit1 v => decide (v < nVoices)
  | .hit2 v => decide (v < nVoices)
  | .hit3 v => decide (v < nVoices)
  | .hit4 v => decide (v < nVoices)
  | .hit5 v => decide (v < nVoices)
  | .hit6 v => decide (v < nVoices)
  | .hit7 v => decide (v < nVoices)
  | .hit8 v => decide (v < nVoices)
  | .hit9 v => decide (v < nVoices)
  | .reset => true
  | .tickq => true
  | .advance => true
  | .trigscan => true
  | .vfetch v => decide (v.toNat < nVoices)
  | .vstep v => decide (v.toNat < nVoices)
  | .gain v => decide (v.toNat < nVoices)
  | .panmul v => decide (v.toNat < nVoices)
  | .accclr => true
  | .accadd => true
  | .pack => true
  | .mixv v => decide (v.toNat < nVoices)
  | .genframe => true
  | .fillchk => true
  | .fillfrm => true
  | .fill => true
  | .complete => true
  | .devread => true
  | .prefill => true
  | .start => true

end Sys2Proof
end

