-- ==== Sys2Proof/Decode.lean ====
section
/-! DEFINITION. Decoding a command to an instruction, total and rejecting by name (R91, R100 to R102), and the encoder
that writes the command of an instruction from the same tables. -/

namespace Sys2Proof

/-- The symbol table of R91 for the symbol of grid row v; any other code is reserved (R101). -/
def decodeSym (v : Nat) (code : SymCode) : Except DecodeError Instr :=
  match code.toNat with
  | 0x20 => .ok (.nohit v)
  | 0x31 => .ok (.hit1 v)
  | 0x32 => .ok (.hit2 v)
  | 0x33 => .ok (.hit3 v)
  | 0x34 => .ok (.hit4 v)
  | 0x35 => .ok (.hit5 v)
  | 0x36 => .ok (.hit6 v)
  | 0x37 => .ok (.hit7 v)
  | 0x38 => .ok (.hit8 v)
  | 0x39 => .ok (.hit9 v)
  | _ => .error .reservedSymbol

/-- `op`, bits [4:0] of an OP word (R90). -/
def OpWord.opField (w : OpWord) : BitVec 5 := w.extractLsb' 0 5
/-- The field of bits [7:5], which must be 0 (R90). -/
def OpWord.zeroField (w : OpWord) : BitVec 3 := w.extractLsb' 5 3
/-- `v`, bits [15:8] (R90). -/
def OpWord.voiceField (w : OpWord) : VoiceField := w.extractLsb' 8 8

/-- An operation without a voice operand has 0 in its voice field (R90, R102). -/
def withoutVoice (v : VoiceField) (i : Instr) : Except DecodeError Instr :=
  if v = 0 then .ok i else .error .strayVoice

/-- The operation table of R100. -/
def decodeOp (w : OpWord) : Except DecodeError Instr :=
  let v := OpWord.voiceField w
  if OpWord.zeroField w ≠ 0 then .error .zeroFieldNotZero
  else match (OpWord.opField w).toNat with
    | 0x00 => withoutVoice v .reset
    | 0x01 => withoutVoice v .tickq
    | 0x02 => withoutVoice v .advance
    | 0x03 => withoutVoice v .trigscan
    | 0x04 => .ok (.vfetch v)
    | 0x05 => .ok (.vstep v)
    | 0x06 => .ok (.gain v)
    | 0x07 => .ok (.panmul v)
    | 0x08 => withoutVoice v .accclr
    | 0x09 => withoutVoice v .accadd
    | 0x0A => withoutVoice v .pack
    | 0x0B => .ok (.mixv v)
    | 0x0C => withoutVoice v .genframe
    | 0x0D => withoutVoice v .fillchk
    | 0x0E => withoutVoice v .fillfrm
    | 0x0F => withoutVoice v .fill
    | 0x10 => withoutVoice v .complete
    | 0x11 => withoutVoice v .devread
    | 0x12 => withoutVoice v .prefill
    | 0x13 => withoutVoice v .start
    | _ => .error .reservedOp

/-- The instruction a command stands for. -/
def decode : Cmd → Except DecodeError Instr
  | .op w => decodeOp w
  | .sym row code => decodeSym row code

/-- The OP word of an operation number and a voice field (R90). -/
def opWord (op : BitVec 5) (v : VoiceField) : OpWord := v ++ (0#3 ++ op)

/-- The command of an instruction (R91, R100). -/
def encode : Instr → Cmd
  | .nohit v => .sym v 0x20
  | .hit1 v => .sym v 0x31
  | .hit2 v => .sym v 0x32
  | .hit3 v => .sym v 0x33
  | .hit4 v => .sym v 0x34
  | .hit5 v => .sym v 0x35
  | .hit6 v => .sym v 0x36
  | .hit7 v => .sym v 0x37
  | .hit8 v => .sym v 0x38
  | .hit9 v => .sym v 0x39
  | .reset => .op (opWord 0x00 0)
  | .tickq => .op (opWord 0x01 0)
  | .advance => .op (opWord 0x02 0)
  | .trigscan => .op (opWord 0x03 0)
  | .vfetch v => .op (opWord 0x04 v)
  | .vstep v => .op (opWord 0x05 v)
  | .gain v => .op (opWord 0x06 v)
  | .panmul v => .op (opWord 0x07 v)
  | .accclr => .op (opWord 0x08 0)
  | .accadd => .op (opWord 0x09 0)
  | .pack => .op (opWord 0x0A 0)
  | .mixv v => .op (opWord 0x0B v)
  | .genframe => .op (opWord 0x0C 0)
  | .fillchk => .op (opWord 0x0D 0)
  | .fillfrm => .op (opWord 0x0E 0)
  | .fill => .op (opWord 0x0F 0)
  | .complete => .op (opWord 0x10 0)
  | .devread => .op (opWord 0x11 0)
  | .prefill => .op (opWord 0x12 0)
  | .start => .op (opWord 0x13 0)

/-- The command the table's numbering gives: a row of 16 bits is an OP word; a row of 8 bits is a symbol of grid
row 0, unless its bits [7:5] are 0, which no symbol's are and every operation's low byte's are: then it is the
low byte of an OP word whose voice byte is 0 (log 12). -/
def tableCmd (nbits w : Nat) : Option Cmd :=
  if nbits = 16 then some (.op (BitVec.ofNat 16 w))
  else if nbits = 8 then
    if w % 256 < 0x20 then some (.op (BitVec.ofNat 16 (w % 256))) else some (.sym 0 (BitVec.ofNat 8 w))
  else none

/-- The instruction the decoder reads from a table row's bits. -/
def decodeTableWord (nbits w : Nat) : Option Instr :=
  match tableCmd nbits w with
  | none => none
  | some c =>
    match decode c with
    | .ok i => some i
    | .error _ => none

end Sys2Proof
end

