-- ==== Sys2Proof/Machine/Fetch.lean ====
section
/-! DEFINITION. What the next step runs: the oldest command the outside world has scheduled (R106; log 6), or, when it
has scheduled none, the machine's own next step: the boot order of R272 and then a step of the agent the free
schedule picks (R75, R213; log 7). -/

namespace Sys2Proof.Machine

/-- The fill engine's next step: exactly one of FILLCHK and FILLFRM (R213). -/
def fillEngineStep (s : State) : Instr :=
  match s.fillState with
  | .check => .fillchk
  | .writing => .fillfrm

/-- The Output Device's next step: DEVREAD until the slot is read, then COMPLETE (R227, R283). -/
def outputDeviceStep (s : State) : Instr :=
  if completionPending s then .complete else .devread

/-- The step the machine takes of its own: PREFILL, then START (R271, R272), then the picked agent's (R75). -/
def ownStep (s : State) : Instr :=
  if !s.prefilled then .prefill
  else if !s.devActive then .start
  else match Config.schedule s.turn with
    | .fillEngine => fillEngineStep s
    | .outputDevice => outputDeviceStep s

/-- Decodes a command and checks its voice operand (R101, R102). -/
def decodeCommand (c : Cfg) (cmd : Cmd) : Except Refusal Instr :=
  match decode cmd with
  | .error e => .error (.reservedCommand e)
  | .ok i => if i.wf c.nVoices then .ok i else .error .reservedVoice

/-- The instruction of the next step, and the state with its command taken off the queue (or one turn of the free
schedule used); an ill-formed configuration is refused (R7, U1). -/
def fetch (s : State) : Except Refusal (Instr × State) :=
  if s.cfg.wf then
    match s.cmds with
    | cmd :: rest =>
      match decodeCommand s.cfg cmd with
      | .ok i => .ok (i, s.setSchedule rest s.turn)
      | .error e => .error e
    | [] => .ok (ownStep s, s.setSchedule [] (s.turn + 1))
  else .error .illFormedConfig

/-- Puts a command at the front of the queue. -/
def schedule (s : State) (cmd : Cmd) : State := s.setSchedule (cmd :: s.cmds) s.turn

end Sys2Proof.Machine
end

