-- ==== Sys2Proof/Machine/Step.lean ====
section
/-! DEFINITION. One step of the machine, and the state whose next step runs a given table word. -/

namespace Sys2Proof.Machine

/-- One step (R75), or one operation of a trace (R106): fetch what comes next and run it. Of these FILL alone is not atomic
(R212, log 14). -/
def step (s : State) : Host.Outcome State Fault Refusal :=
  match fetch s with
  | .ok (i, s') => exec i s'
  | .error e => .refused e

/-- `s` with a table row's word scheduled as its next command (log 6); `s` itself where the table has no such width. -/
def State.withFetchWord (s : State) (nbits w : Nat) : State :=
  match tableCmd nbits w with
  | some cmd => schedule s cmd
  | none => s

end Sys2Proof.Machine
end

