-- ==== Sys2Proof/Machine/Ports.lean ====
section
/-! DEFINITION. The ports of R48 (the spec's own, D16; no timing, and no rule rests on them): the input pulses as the
steps they stand for, and the outputs as functions of a step. -/

namespace Sys2Proof.Machine

/-- The input pulses of R48. -/
inductive InputPulse where
  /-- `rst` -/
  | rst
  /-- `start_i` -/
  | startI
  /-- `complete_i` -/
  | completeI
  deriving DecidableEq, Repr

/-- "one pulse is one COMPLETE step"; `rst` is RESET, `start_i` the request for START (R48). -/
def InputPulse.instr : InputPulse → Instr
  | .rst => .reset
  | .startI => .start
  | .completeI => .complete

/-- A pulse on an input port schedules its step next. -/
def pulse (s : State) (p : InputPulse) : State := schedule s (encode p.instr)

/-- How many COMPLETEs a step of the device's side held: the words read make whole slots, but for those of the slot it
ends in (R46, R227). -/
def completesIn (s t : State) : Nat := (s.devRd + (t.out.length - s.out.length) - t.devRd) / s.cfg.bufferSize

/-- `stream_start_o`, `stream_slot_o`: the re-arm pulses of a step in their order, each with the new value of `playing`:
one at START, one at COMPLETE, and one for each COMPLETE that falls into a FILL (R48, R212, R223, R252). `s` and `t` are
the states before and after the step. -/
def streamStart (i : Instr) (s t : State) : List Nat :=
  if i = .start then [t.playing]
  else if i = .complete ∨ i = .fill then
    (List.range (completesIn s t)).map fun k => (s.playing + (k + 1)) % s.cfg.nSlots
  else []

/-- The write of word (slot, frame) by a step that ends in t. FILLFRM, FILL and PREFILL write no word twice, so the word
written is the one that stands there afterwards. -/
def ringWriteOf (t : State) (slot frame : Nat) : Nat × Nat × FrameWord :=
  (slot, frame, ringWord t (ringIndex t.cfg slot frame))

/-- The writes of one whole slot, in frame order (R211, R222). -/
def slotWrites (t : State) (slot : Nat) : List (Nat × Nat × FrameWord) :=
  (List.range t.cfg.bufferSize).map (ringWriteOf t slot)

/-- `ring_we_o`, `ring_slot_o`, `ring_frame_o`, `ring_wdata_o`: the writes of a step in their order, none where
`ring_we_o` stays low (R48): one per FILLFRM; a FILL that passes its check has BUFFER_SIZE of them (R212) and PREFILL
N × BUFFER_SIZE (R222), which leave by the same port, the only one that writes RING (D16). `s` and `t` are the states
before and after the step. -/
def ringWritePort (i : Instr) (s t : State) : List (Nat × Nat × FrameWord) :=
  if i = .fillfrm then [ringWriteOf t s.filling s.frameIdx]
  else if i = .fill then (if ringFull s then [] else slotWrites t s.filling)
  else if i = .prefill then (List.range s.cfg.nSlots).flatMap fun k => slotWrites t ((s.filling + k) % s.cfg.nSlots)
  else []

/-- `ring_raddr`, the device's read address (slot, frame) while DEVREAD is enabled (R48, R226). Before START, and once the
whole slot has been read, the device reads nothing (R225) and the spec says nothing of the port: that it then shows no
address, and `ring_rdata` no word, is the model's choice (log 5). -/
def ringReadPort (s : State) : Option (Nat × Nat) :=
  if enabled s .devread && ringInRange s.cfg (streamSlot s) s.devRd then some (streamSlot s, s.devRd) else none

/-- `ring_rdata`, the word at the device's read address; none where there is no address (R48; log 5). -/
def ringReadData (s : State) : Option FrameWord :=
  (ringReadPort s).map fun a => ringWord s (ringIndex s.cfg a.1 a.2)

/-- `song_b_o`, `song_d_i`: the SONG read port as TRIGSCAN uses it (R48, R151). It and the two ports below give the access
the operation makes in state s; what a port shows while no operation uses it is not modelled (log 5). -/
def songPort (s : State) : Nat × Option Nat := (s.timing.bar, readSong s.cfg s.timing.bar)

/-- `pat_p_o`, `pat_v_o`, `pat_t_o`, `pat_d_i`: the PATTERN read port for voice v, once SONG has given the grid p (R48,
R151). -/
def patternPort (s : State) (p v : Nat) : (Nat × Nat × Nat) × Option SymCode :=
  ((p, v, s.timing.tickOfBar), readPattern s.cfg p v s.timing.tickOfBar)

/-- `samp_k_o`, `samp_i_o`, `samp_d_i`: the SAMPLE read port as VFETCH of a voice uses it (R48, R152). -/
def samplePort (c : Cfg) (x : Voice) : (Nat × Nat) × Option Elem := ((x.sample, x.pos), readSample c x.sample x.pos)

end Sys2Proof.Machine
end

