-- ==== Sys2Proof/Safety.lean ====
section
/-! DEFINITION. The terms the claims use: traces of instructions, the invariant of every reachable state, the sequencer's
position number, and what a frame is by the spec's formulas. -/

namespace Sys2Proof.Safety

open Sys2Proof.Machine

/-- A trace of instructions run one after the other (R106), stopping at the first that stops. -/
def runInstrs : List Instr → State → Result
  | [], s => .next s
  | i :: rest, s => andThen (exec i s) (runInstrs rest)

/-- n copies of a trace. -/
def repeatTrace (n : Nat) (is : List Instr) : List Instr := (List.replicate n is).flatten

/-! ### Timing -/

/-- `n(bar, tickOfBar, sampleOfTick)` (R122). -/
def positionNumber (c : Cfg) (t : Timing) : Nat :=
  (t.bar * c.barLen + t.tickOfBar) * c.samplesPerTick + t.sampleOfTick

/-- `P = SAMPLES_PER_TICK × BAR_LEN × LOOP_BARS` (R122). -/
def period (c : Cfg) : Nat := c.samplesPerTick * c.barLen * c.loopBars

/-- The Timing State is in range (R24). -/
def TimingInRange (c : Cfg) (t : Timing) : Prop :=
  t.bar < c.loopBars ∧ t.tickOfBar < c.barLen ∧ t.sampleOfTick < c.samplesPerTick

/-! ### The invariant -/

/-- The static fields of a voice (R27 to R29). -/
def staticOf (x : Voice) : VoiceCfg := { pan := x.pan, volume := x.volume, sample := x.sample }

/-- A signed W-bit value (R9). -/
def SignedRange (W : Nat) (x : Int) : Prop := -(2 : Int) ^ (W - 1) ≤ x ∧ x < (2 : Int) ^ (W - 1)

/-- What the spec says of every reachable state, and what the boot order (R271, R272) adds to it. -/
structure Inv (s : State) : Prop where
  /-- R7 -/
  cfgWf : s.cfg.wf = true
  /-- R24 -/
  timing : TimingInRange s.cfg s.timing
  /-- R26 to R29, R33: one voice per voice of `Cfg`, its static fields those of `Cfg` -/
  voicesStatic : s.voices.map staticOf = s.cfg.voices
  /-- R32, first half -/
  posInTable : ∀ x ∈ s.voices, x.pos < (tableLen s.cfg x.sample).getD 0
  /-- R32, second half -/
  emphLevel : ∀ x ∈ s.voices, ∃ j < 9, x.emph = j * s.cfg.emphStep
  /-- R34 -/
  accLRange : SignedRange s.cfg.accW s.accL
  /-- R34 -/
  accRRange : SignedRange s.cfg.accW s.accR
  /-- R36 -/
  playingInRange : s.playing < s.cfg.nSlots
  /-- R37 -/
  fillingInRange : s.filling < s.cfg.nSlots
  /-- R20, R44 -/
  frameInRange : s.frameIdx < s.cfg.bufferSize
  /-- R44: "In CHECK, `frameIdx == 0`" -/
  checkFrame : s.fillState = .check → s.frameIdx = 0
  /-- R20, R45 -/
  cursorInRange : s.devRd ≤ s.cfg.bufferSize
  /-- R45: the device reads nothing before START -/
  cursorIdle : s.devActive = false → s.devRd = 0
  /-- R36, R271: `playing` keeps its reset value until START -/
  playingIdle : s.devActive = false → s.playing = s.cfg.nSlots - 1
  /-- R223: START needs PREFILL -/
  activePrefilled : s.devActive = true → s.prefilled = true
  /-- R271: nothing runs between RESET and PREFILL -/
  beforePrefill : s.prefilled = false → s.filling = 0 ∧ s.fillState = .check
  /-- the canonical form of RING -/
  ringWf : s.ring.wf
  /-- R60: only words of RING are listed -/
  ringInside : ∀ p ∈ s.ring, p.1 < s.cfg.nSlots * s.cfg.bufferSize
  /-- R272: after PREFILL every word has been written -/
  ringWritten : s.prefilled = true → ∀ a < s.cfg.nSlots * s.cfg.bufferSize, (s.ring.read a).isSome

/-- An instruction the spec has a step for in this state: a step's own enabling condition, FILL that of its first part
(R212); every other operation runs in any state. -/
def runnable (s : State) : Instr → Bool
  | .fillchk => enabled s .fillchk
  | .fillfrm => enabled s .fillfrm
  | .fill => enabled s .fillchk
  | .complete => enabled s .complete
  | .devread => enabled s .devread
  | .prefill => enabled s .prefill
  | .start => enabled s .start
  | .nohit _ | .hit1 _ | .hit2 _ | .hit3 _ | .hit4 _ | .hit5 _ | .hit6 _ | .hit7 _ | .hit8 _ | .hit9 _ => true
  | .reset | .tickq | .advance | .trigscan | .vfetch _ | .vstep _ | .gain _ | .panmul _ => true
  | .accclr | .accadd | .pack | .mixv _ | .genframe => true

/-- The steps of the Output Device (R75). -/
def isDeviceStep : Instr → Bool
  | .complete | .devread | .start => true
  | _ => false

/-- The symbols: NOHIT and HIT1 to HIT9 (R91). -/
def isSymbol : Instr → Bool
  | .nohit _ | .hit1 _ | .hit2 _ | .hit3 _ | .hit4 _ | .hit5 _ | .hit6 _ | .hit7 _ | .hit8 _ | .hit9 _ => true
  | _ => false

/-- The steps of the two agents after boot, and FILL (R75, R212). -/
def isRunStep : Instr → Bool
  | .fillchk | .fillfrm | .fill | .complete | .devread => true
  | _ => false

/-- What a hit of a level leaves (R140): offset 1, emphasis `level × EMPH_STEP`, everything else as it was. -/
def afterHit (s : State) (v : Nat) (x : Voice) (level : Nat) : State :=
  { s with voices := s.voices.set v { x with pos := 1, emph := level * s.cfg.emphStep } }

/-! ### A frame by the spec's formulas -/

/-- The symbol the scan reads for voice v (R151). -/
def symbolAt (s : State) (v : Nat) : Option SymCode :=
  (s.cfg.song[s.timing.bar]?).bind fun p =>
    (s.cfg.patterns[p]?).bind fun grid => (grid[v]?).bind fun row => row[s.timing.tickOfBar]?

/-- Voice v after a symbol (R140): blank leaves it, a digit restarts it with `(digit − '1') × EMPH_STEP`. -/
def afterSymbol (c : Cfg) (code : SymCode) (x : Voice) : Voice :=
  if code = 0x20 then x else { x with pos := 1, emph := (code.toNat - 0x31) * c.emphStep }

/-- The Voice Bank after the scan of a tick start (R151). -/
def scannedVoices (s : State) : List Voice :=
  s.voices.mapIdx fun v x => ((symbolAt s v).map fun code => afterSymbol s.cfg code x).getD x

/-- The Voice Bank a frame is mixed from (R189). -/
def voicesAtFrame (s : State) : List Voice :=
  if s.timing.sampleOfTick = 0 then scannedVoices s else s.voices

/-- The element a voice reads (R152, R155). -/
def elementOf (c : Cfg) (x : Voice) : Int :=
  (((c.samples[x.sample]?).bind fun table => table[x.pos]?).map BitVec.toInt).getD 0

/-- `SilentAtZero(Cfg)`: element 0 of every table is 0 (R155, D22). A premise about the contents, no condition of
well-formedness. -/
def SilentAtZero (c : Cfg) : Prop := ∀ table ∈ c.samples, table[0]? = some 0

/-- A voice's left product, `(emph + volume) × element × pan`; 0 for a voice that is skipped (R171, R172, R188). -/
def leftOf (c : Cfg) (x : Voice) : Int :=
  if x.sample < c.samples.length then ((x.emph : Int) + x.volume) * elementOf c x * x.pan else 0

/-- A voice's right product, with the weight `PAN_MAX − pan` (R172). -/
def rightOf (c : Cfg) (x : Voice) : Int :=
  if x.sample < c.samples.length then ((x.emph : Int) + x.volume) * elementOf c x * ((c.panMax : Int) - x.pan)
  else 0

/-- `SL`, the exact sum of the left products (R190). -/
def leftSum (c : Cfg) (xs : List Voice) : Int := (xs.map (leftOf c)).sum

/-- `SR`, the exact sum of the right products (R190). -/
def rightSum (c : Cfg) (xs : List Voice) : Int := (xs.map (rightOf c)).sum

/-- A voice's next read offset (R153, R188). -/
def steppedVoice (c : Cfg) (x : Voice) : Voice :=
  match c.samples[x.sample]? with
  | none => x
  | some table => if x.pos = 0 then x else { x with pos := if x.pos + 1 = table.length then 0 else x.pos + 1 }

/-- `floor(S / 2^OUT_SHIFT) mod 2^16` (R187, R190). -/
def fieldOf (c : Cfg) (sum : Int) : BitVec 16 := BitVec.ofInt 16 (Int.fdiv sum (2 ^ c.outShift))

/-- The half of a frame word that holds the left channel (R93, D7). -/
def leftHalf (c : Cfg) (w : FrameWord) : BitVec 16 := if c.leftHigh then w.extractLsb' 16 16 else w.extractLsb' 0 16

/-- The half that holds the right channel. -/
def rightHalf (c : Cfg) (w : FrameWord) : BitVec 16 := if c.leftHigh then w.extractLsb' 0 16 else w.extractLsb' 16 16

/-- The frame word of two exact sums (R93, R190). -/
def wordOf (c : Cfg) (l r : Int) : FrameWord :=
  if c.leftHigh then fieldOf c l ++ fieldOf c r else fieldOf c r ++ fieldOf c l

/-! ### The generated stream -/

/-- k frames generated, each followed by ADVANCE (R123). -/
def framesTrace (k : Nat) : List Instr := repeatTrace k [.genframe, .advance]

/-- The g-th frame generated from s on is the word w (R195: `G(g)`). -/
def Generates (s : State) (g : Nat) (w : FrameWord) : Prop :=
  ∃ u, runInstrs (framesTrace g ++ [.genframe]) s = .next u ∧ u.tmp.frame = w

/-- `startup` (R107, R272). -/
def bootTrace : List Instr := [.reset, .prefill, .start]

/-- One slot of a kept-up run (R230): the device streams a whole slot and completes, then the one fill that becomes
possible runs. -/
def keptUpSlot (c : Cfg) : List Instr := List.replicate c.bufferSize .devread ++ [.complete, .fill]

/-- One slot streamed with no step of the fill engine (R232). -/
def starvedSlot (c : Cfg) : List Instr := List.replicate c.bufferSize .devread ++ [.complete]

/-- The mix of a frame in single operations (R107, R189). -/
def frameOperations (c : Cfg) (t : Timing) : List Instr :=
  [.tickq] ++ (if t.sampleOfTick = 0 then [.trigscan] else []) ++ [.accclr]
    ++ ((List.range c.nVoices).map fun v => Instr.mixv (BitVec.ofNat 8 v)) ++ [.pack]

/-- The device's place in RING, counted in words: word `devRd` of the slot it streams (R66, R226). -/
def devicePlace (s : State) : Nat := ringIndex s.cfg (streamSlot s) s.devRd

/-- What a step emits: DEVREAD the word at the device's place, every other instruction nothing (R226, R228). -/
def emits (i : Instr) (s : State) : List FrameWord :=
  if i = .devread then [ringWord s (devicePlace s)] else []

/-- What a trace emits, each word as it stands in RING when it leaves (R228). -/
def emittedBy : List Instr → State → List FrameWord
  | [], _ => []
  | i :: rest, s => emits i s ++ match exec i s with
    | .next t => emittedBy rest t
    | .fault _ => []
    | .refused _ => []

/-- A kept-up trace (R230): it runs, and at every COMPLETE the fill engine is in CHECK with `filling == playing`. -/
def keptUp : List Instr → State → Bool
  | [], _ => true
  | i :: rest, s => (decide (i ≠ .complete) || (s.fillState == .check && s.filling == s.playing))
    && match exec i s with
      | .next t => keptUp rest t
      | .fault _ => false
      | .refused _ => false

/-- `max LEN` (R20). -/
def maxLen (c : Cfg) : Nat := (c.samples.map List.length).foldr max 0

/-- Every register of R20's table is within its width (D5; the accumulators D6). -/
def FitsWidths (s : State) : Prop :=
  s.timing.bar < 2 ^ clog2 s.cfg.loopBars ∧ s.timing.tickOfBar < 2 ^ clog2 s.cfg.barLen
  ∧ s.timing.sampleOfTick < 2 ^ clog2 s.cfg.samplesPerTick
  ∧ (∀ x ∈ s.voices, x.pan < 2 ^ clog2 (s.cfg.panMax + 1) ∧ x.volume < 2 ^ 8
      ∧ x.sample < 2 ^ clog2 (s.cfg.nSamples + 1) ∧ x.pos < 2 ^ clog2 (maxLen s.cfg)
      ∧ x.emph < 2 ^ clog2 (8 * s.cfg.emphStep + 1))
  ∧ SignedRange s.cfg.accW s.accL ∧ SignedRange s.cfg.accW s.accR
  ∧ s.playing < 2 ^ clog2 s.cfg.nSlots ∧ s.filling < 2 ^ clog2 s.cfg.nSlots
  ∧ s.frameIdx < 2 ^ clog2 s.cfg.bufferSize ∧ s.devRd < 2 ^ clog2 (s.cfg.bufferSize + 1)

end Sys2Proof.Safety
end

