-- ==== Sys2Proof/Certificates/Slice0/Obligations.lean ====
section
/-! DEFINITION. The statements for the provers. Each docstring names the rules of spec/ it formalises; where it rests on a
choice of the model or a decision of the spec it says which. -/

open Sys2Proof Sys2Proof.Machine Sys2Proof.Safety

/-! ### Encodings -/

/-- Words written out from R91 and R100 decode to their instructions. The codes and numbers are the spec's own (D1, D2);
the grid row beside a symbol is the model's (log 12). -/
def Obligations.TableRowsDecode : Prop :=
  decode (.sym 3 0b00100000#8) = .ok (.nohit 3) ∧ decode (.sym 3 0b00110001#8) = .ok (.hit1 3) ∧
  decode (.sym 3 0b00110010#8) = .ok (.hit2 3) ∧ decode (.sym 3 0b00110011#8) = .ok (.hit3 3) ∧
  decode (.sym 3 0b00110100#8) = .ok (.hit4 3) ∧ decode (.sym 3 0b00110101#8) = .ok (.hit5 3) ∧
  decode (.sym 3 0b00110110#8) = .ok (.hit6 3) ∧ decode (.sym 3 0b00110111#8) = .ok (.hit7 3) ∧
  decode (.sym 3 0b00111000#8) = .ok (.hit8 3) ∧ decode (.sym 3 0b00111001#8) = .ok (.hit9 3) ∧
  decode (.op 0b0000000000000000#16) = .ok .reset ∧ decode (.op 0b0000000000000001#16) = .ok .tickq ∧
  decode (.op 0b0000000000000010#16) = .ok .advance ∧ decode (.op 0b0000000000000011#16) = .ok .trigscan ∧
  decode (.op 0b0000010100000100#16) = .ok (.vfetch 5) ∧ decode (.op 0b0000010100000101#16) = .ok (.vstep 5) ∧
  decode (.op 0b0000010100000110#16) = .ok (.gain 5) ∧ decode (.op 0b0000010100000111#16) = .ok (.panmul 5) ∧
  decode (.op 0b0000000000001000#16) = .ok .accclr ∧ decode (.op 0b0000000000001001#16) = .ok .accadd ∧
  decode (.op 0b0000000000001010#16) = .ok .pack ∧ decode (.op 0b0000010100001011#16) = .ok (.mixv 5) ∧
  decode (.op 0b0000000000001100#16) = .ok .genframe ∧ decode (.op 0b0000000000001101#16) = .ok .fillchk ∧
  decode (.op 0b0000000000001110#16) = .ok .fillfrm ∧ decode (.op 0b0000000000001111#16) = .ok .fill ∧
  decode (.op 0b0000000000010000#16) = .ok .complete ∧ decode (.op 0b0000000000010001#16) = .ok .devread ∧
  decode (.op 0b0000000000010010#16) = .ok .prefill ∧ decode (.op 0b0000000000010011#16) = .ok .start

/-- Decoding and encoding are inverse to each other on every command and every instruction (R90, R91, R100; the numbers
are the spec's own, D1, D2). -/
def Obligations.DecodeInvertsEncode : Prop :=
  ∀ (cmd : Cmd) (i : Instr), decode cmd = .ok i ↔ cmd = encode i

/-- A symbol code is rejected exactly when it is outside the alphabet (R101); an OP word is rejected, by its own name,
when bits [7:5] are not 0, when `op` is 0x14 to 0x1F, and when an operation without a voice operand has `v ≠ 0`
(R102, D1), and every other OP word decodes. -/
def Obligations.ReservedCommandsRejected : Prop :=
  (∀ (row : Nat) (code : SymCode), decode (.sym row code) = .error .reservedSymbol ↔
    code.toNat ≠ 0x20 ∧ ¬ (0x31 ≤ code.toNat ∧ code.toNat ≤ 0x39)) ∧
  ∀ w : OpWord,
    (w.toNat / 32 % 8 ≠ 0 → decode (.op w) = .error .zeroFieldNotZero) ∧
    (w.toNat / 32 % 8 = 0 → 0x14 ≤ w.toNat % 32 → decode (.op w) = .error .reservedOp) ∧
    (w.toNat / 32 % 8 = 0 → w.toNat % 32 < 0x14 → w.toNat / 256 ≠ 0 →
      ¬ (0x04 ≤ w.toNat % 32 ∧ w.toNat % 32 ≤ 0x07) → w.toNat % 32 ≠ 0x0B → decode (.op w) = .error .strayVoice) ∧
    (w.toNat / 32 % 8 = 0 → w.toNat % 32 < 0x14 →
      (w.toNat / 256 = 0 ∨ (0x04 ≤ w.toNat % 32 ∧ w.toNat % 32 ≤ 0x07) ∨ w.toNat % 32 = 0x0B) →
      ∃ i, decode (.op w) = .ok i)

/-! ### The step -/

/-- A step runs the decoded instruction: when the oldest scheduled command decodes to a well-formed instruction, the step
is that instruction's meaning on the state with the command taken off (R106; the queue is the model's, log 6). -/
def Obligations.StepRunsScheduledCommand : Prop :=
  ∀ (s : State) (cmd : Cmd) (rest : List Cmd) (i : Instr), s.cfg.wf = true → s.cmds = cmd :: rest →
    decode cmd = .ok i → i.wf s.cfg.nVoices = true → step s = exec i { s with cmds := rest }

/-- A table row's word placed by `withFetchWord` is what the next step runs, on the very state it was placed in (log 6). -/
def Obligations.StepRunsTableWord : Prop :=
  ∀ (s : State) (nbits w : Nat) (i : Instr), s.cfg.wf = true → decodeTableWord nbits w = some i →
    i.wf s.cfg.nVoices = true → step (s.withFetchWord nbits w) = exec i s

/-- With nothing scheduled the machine boots in the order of R272 (D10, D11), and then takes a step of the agent the free
schedule picks: FILLCHK in CHECK and FILLFRM in WRITING (R213), DEVREAD until the slot is read and then COMPLETE
(R227). The free schedule and its counter are the model's (log 7); it holds for every schedule. -/
def Obligations.StepWithoutSchedule : Prop :=
  ∀ s : State, s.cfg.wf = true → s.cmds = [] →
    (s.prefilled = false → step s = exec .prefill { s with turn := s.turn + 1 }) ∧
    (s.prefilled = true → s.devActive = false → step s = exec .start { s with turn := s.turn + 1 }) ∧
    (s.prefilled = true → s.devActive = true → step s = exec
      (match Config.schedule s.turn with
        | .fillEngine => if s.fillState = .check then .fillchk else .fillfrm
        | .outputDevice => if s.devRd = s.cfg.bufferSize then .complete else .devread)
      { s with turn := s.turn + 1 })

/-- An ill-formed configuration is refused (R7, U1); so is a reserved command (R101, R102) and one whose voice operand
names no voice (R102). The names of the refusals are the model's (log 11). -/
def Obligations.StepRefusesIllFormed : Prop :=
  (∀ s : State, s.cfg.wf = false → step s = .refused .illFormedConfig) ∧
  (∀ (s : State) (cmd : Cmd) (rest : List Cmd) (e : DecodeError), s.cfg.wf = true → s.cmds = cmd :: rest →
    decode cmd = .error e → step s = .refused (.reservedCommand e)) ∧
  (∀ (s : State) (cmd : Cmd) (rest : List Cmd) (i : Instr), s.cfg.wf = true → s.cmds = cmd :: rest →
    decode cmd = .ok i → i.wf s.cfg.nVoices = false → step s = .refused .reservedVoice)

/-! ### Symbols -/

/-- HIT1 to HIT9 restart their voice at element 1 and set `emph` to (digit − 1) × EMPH_STEP, whatever the voice was
doing; nothing else changes (R142 to R150). -/
def Obligations.HitsRestartVoice : Prop :=
  ∀ (s : State) (v : Nat) (x : Voice), s.voices[v]? = some x →
    exec (.hit1 v) s = .next (afterHit s v x 0) ∧ exec (.hit2 v) s = .next (afterHit s v x 1) ∧
    exec (.hit3 v) s = .next (afterHit s v x 2) ∧ exec (.hit4 v) s = .next (afterHit s v x 3) ∧
    exec (.hit5 v) s = .next (afterHit s v x 4) ∧ exec (.hit6 v) s = .next (afterHit s v x 5) ∧
    exec (.hit7 v) s = .next (afterHit s v x 6) ∧ exec (.hit8 v) s = .next (afterHit s v x 7) ∧
    exec (.hit9 v) s = .next (afterHit s v x 8)

/-- NOHIT changes nothing (R141). -/
def Obligations.NohitChangesNothing : Prop :=
  ∀ (s : State) (v : Nat), exec (.nohit v) s = .next s

/-- What is out of range has no step and stops by name: a number that names no voice (the hits, the five operations with a
voice operand), a sample index outside its table (VFETCH), the length of a table that does not exist (VSTEP of a playing
voice; an idle one is left alone), a bar outside SONG or a code outside the alphabet in the first row (TRIGSCAN), a slot
outside RING (DEVREAD) (R10, R71, R101, R102; the spec gives no result, the stops are the model's, log 11). -/
def Obligations.OutOfRangeStops : Prop :=
  (∀ (s : State) (v : Nat) (w : VoiceField), s.voices.length ≤ v → s.voices.length ≤ w.toNat →
    (∀ i ∈ [Instr.hit1 v, .hit2 v, .hit3 v, .hit4 v, .hit5 v, .hit6 v, .hit7 v, .hit8 v, .hit9 v],
      exec i s = .fault (.noSuchVoice v)) ∧
    (∀ i ∈ [Instr.vfetch w, .vstep w, .gain w, .panmul w, .mixv w], exec i s = .fault (.noSuchVoice w.toNat))) ∧
  (∀ (s : State) (v : VoiceField) (x : Voice), s.voices[v.toNat]? = some x →
    ((∀ table, s.cfg.samples[x.sample]? = some table → table.length ≤ x.pos) →
      exec (.vfetch v) s = .fault (.outOfRange .sample)) ∧
    (s.cfg.samples.length ≤ x.sample →
      exec (.vstep v) s = if x.pos = 0 then .next s else .fault (.outOfRange .sample))) ∧
  (∀ s : State, s.cfg.loopBars ≤ s.timing.bar → exec .trigscan s = .fault (.outOfRange .song)) ∧
  (∀ (s : State) (code : SymCode), 1 ≤ s.cfg.nVoices → symbolAt s 0 = some code → legalSymbol code = false →
    exec .trigscan s = .refused (.reservedSymbol code)) ∧
  (∀ s : State, s.cfg.streamBeforeAdvance = false → s.devActive = true → s.devRd < s.cfg.bufferSize →
    s.cfg.nSlots ≤ s.playing → exec .devread s = .fault (.outOfRange .ring))

/-! ### Timing -/

/-- TICKQ answers whether `sampleOfTick` is 0 and writes nothing else (R120). The transient that holds the answer is the
model's (log 8). -/
def Obligations.TickqAnswersTickStart : Prop :=
  ∀ s : State, exec .tickq s =
    .next { s with tmp := { s.tmp with tick := decide (s.timing.sampleOfTick = 0) } }

/-- ADVANCE: the three counters with their three wraps, and nothing but the Timing State (R121); from an in-range position
it yields an in-range one, which the spec marks as derived ("from an in-range position it yields an in-range position, so
no register ever holds its limit value"). -/
def Obligations.AdvanceCarries : Prop :=
  ∀ s : State,
    exec .advance s = .next { s with timing :=
      if s.timing.sampleOfTick + 1 = s.cfg.samplesPerTick then
        if s.timing.tickOfBar + 1 = s.cfg.barLen then
          { bar := if s.timing.bar + 1 = s.cfg.loopBars then 0 else s.timing.bar + 1, tickOfBar := 0, sampleOfTick := 0 }
        else { bar := s.timing.bar, tickOfBar := s.timing.tickOfBar + 1, sampleOfTick := 0 }
      else { bar := s.timing.bar, tickOfBar := s.timing.tickOfBar, sampleOfTick := s.timing.sampleOfTick + 1 } } ∧
    (TimingInRange s.cfg s.timing → ∀ t, exec .advance s = .next t → TimingInRange t.cfg t.timing)

/-- The position number is a bijection between the in-range positions and 0 .. P − 1, and ADVANCE maps n to (n + 1) mod P
(R122). -/
def Obligations.AdvanceAddsOneToPosition : Prop :=
  (∀ (c : Cfg) (t : Timing), TimingInRange c t → positionNumber c t < period c) ∧
  (∀ (c : Cfg) (t u : Timing), TimingInRange c t → TimingInRange c u →
    positionNumber c t = positionNumber c u → t = u) ∧
  (∀ (c : Cfg) (n : Nat), n < period c → ∃ t, TimingInRange c t ∧ positionNumber c t = n) ∧
  (∀ s t : State, TimingInRange s.cfg s.timing → exec .advance s = .next t →
    positionNumber t.cfg t.timing = (positionNumber s.cfg s.timing + 1) % period s.cfg)

/-- "For all tick counts T, `advance()` applied T times from a fresh state" is direct modular arithmetic (R122, the
source's property S8.1). -/
def Obligations.AdvanceIsModularArithmetic : Prop :=
  ∀ (s : State) (T : Nat), 1 ≤ s.cfg.samplesPerTick → 1 ≤ s.cfg.barLen → 1 ≤ s.cfg.loopBars →
    s.timing = { bar := 0, tickOfBar := 0, sampleOfTick := 0 } →
    runInstrs (List.replicate T .advance) s = .next { s with timing :=
      { bar := T % period s.cfg / (s.cfg.samplesPerTick * s.cfg.barLen)
        tickOfBar := T % period s.cfg / s.cfg.samplesPerTick % s.cfg.barLen
        sampleOfTick := T % period s.cfg % s.cfg.samplesPerTick } }

/-- Every generated frame moves the position by exactly one: after g frames it is (n + g) mod P, and the ring, its
indices and the device are untouched (R123, R124). -/
def Obligations.FramesMovePositionByOne : Prop :=
  ∀ (s : State) (g : Nat), Inv s → ∃ t, runInstrs (framesTrace g) s = .next t ∧
    positionNumber t.cfg t.timing = (positionNumber s.cfg s.timing + g) % period s.cfg ∧
    t = { s with timing := t.timing, voices := t.voices, accL := t.accL, accR := t.accR, tmp := t.tmp }

/-! ### Voices -/

/-- TRIGSCAN executes, for every voice, the symbol at (voice, tickOfBar) of the grid SONG names for the bar, and changes
nothing else (R151). -/
def Obligations.TrigscanScansColumn : Prop :=
  ∀ s : State, s.cfg.wf = true → TimingInRange s.cfg s.timing → s.voices.length = s.cfg.nVoices →
    exec .trigscan s = .next { s with voices := scannedVoices s }

/-- TRIGSCAN is the symbols of its column executed one by one (R107, R151). -/
def Obligations.TrigscanIsItsSymbols : Prop :=
  ∀ (s : State) (is : List Instr), s.cfg.wf = true → TimingInRange s.cfg s.timing →
    s.voices.length = s.cfg.nVoices → is.length = s.cfg.nVoices →
    (∀ v i, is[v]? = some i → ∃ code, symbolAt s v = some code ∧ decode (.sym v code) = .ok i) →
    exec .trigscan s = runInstrs is s

/-- VFETCH returns the element at the voice's read offset, idle voices too, and writes nothing else (R152, R155). The
transient that holds it is the model's (log 8). -/
def Obligations.VfetchReadsElement : Prop :=
  ∀ (s : State) (v : VoiceField) (x : Voice) (table : List Elem) (e : Elem), s.voices[v.toNat]? = some x →
    s.cfg.samples[x.sample]? = some table → table[x.pos]? = some e →
    exec (.vfetch v) s = .next { s with tmp := { s.tmp with elem := e.toInt } }

/-- VSTEP leaves an idle voice, advances a playing one and wraps it to idle at the end of its table (R153). -/
def Obligations.VstepAdvancesOffset : Prop :=
  ∀ (s : State) (v : VoiceField) (x : Voice) (table : List Elem), s.voices[v.toNat]? = some x →
    s.cfg.samples[x.sample]? = some table →
    exec (.vstep v) s = .next { s with voices := s.voices.set v.toNat { x with pos :=
      if x.pos = 0 then 0 else if x.pos + 1 = table.length then 0 else x.pos + 1 } }

/-- A hit plays elements 1, 2, … of its table, one a turn of the mix, and is idle, reading element 0, from turn LEN − 1 on
(R154): after j turns its offset is j + 1 while that is inside the table and 0 afterwards. -/
def Obligations.HitPlaysItsTable : Prop :=
  ∀ (s : State) (v : VoiceField) (x : Voice) (table : List Elem) (j : Nat), Inv s → s.voices[v.toNat]? = some x →
    x.pos = 1 → s.cfg.samples[x.sample]? = some table →
    ∃ t y e, runInstrs (List.replicate j (.mixv v) ++ [.vfetch v]) s = .next t ∧
      t.voices[v.toNat]? = some y ∧ y.pos = (if j + 1 < table.length then j + 1 else 0) ∧
      table[if j + 1 < table.length then j + 1 else 0]? = some e ∧ t.tmp.elem = e.toInt

/-- A voice that is blank at every tick of every grid of the song stays idle with emphasis 0 under every instruction but a
symbol executed for it from outside its grids (R157). -/
def Obligations.BlankVoiceStaysSilent : Prop :=
  ∀ (i : Instr) (s t : State) (v : Nat) (x : Voice), Inv s → s.voices[v]? = some x → x.pos = 0 → x.emph = 0 →
    (∀ p ∈ s.cfg.song, ∀ grid row code, s.cfg.patterns[p]? = some grid → grid[v]? = some row → code ∈ row →
      code = 0x20) →
    isSymbol i = false → exec i s = .next t → ∃ y, t.voices[v]? = some y ∧ y.pos = 0 ∧ y.emph = 0

/-! ### Gain and pan -/

/-- GAIN is `emph + volume`, exact, at most 255 + 8 × EMPH_STEP in a reachable state (R171). The transient that holds it
is the model's (log 8). -/
def Obligations.GainAddsEmphasis : Prop :=
  ∀ (s : State) (v : VoiceField) (x : Voice), s.voices[v.toNat]? = some x →
    exec (.gain v) s = .next { s with tmp := { s.tmp with gain := x.emph + x.volume } } ∧
    (Inv s → x.emph + x.volume ≤ 255 + 8 * s.cfg.emphStep)

/-- PANMUL: `g × s × pan` to the left and `g × s × (PAN_MAX − pan)` to the right, exact, and nothing else is written
(R172, R175). The transients are the model's (log 8). -/
def Obligations.PanmulWeighsChannels : Prop :=
  ∀ (s : State) (v : VoiceField) (x : Voice), s.voices[v.toNat]? = some x →
    exec (.panmul v) s = .next { s with tmp := { s.tmp with
      prodL := s.tmp.gain * s.tmp.elem * x.pan
      prodR := s.tmp.gain * s.tmp.elem * ((s.cfg.panMax : Int) - x.pan) } }

/-- The products of a fetched element and the voice's gain are bounded, and their sum is `g × s × PAN_MAX` (R173). -/
def Obligations.ProductsBounded : Prop :=
  ∀ (s : State) (v : VoiceField) (x : Voice), Inv s → s.voices[v.toNat]? = some x →
    ∃ t, runInstrs [.vfetch v, .gain v, .panmul v] s = .next t ∧
      |t.tmp.prodL| ≤ (255 + 8 * s.cfg.emphStep) * 32768 * s.cfg.panMax ∧
      |t.tmp.prodR| ≤ (255 + 8 * s.cfg.emphStep) * 32768 * s.cfg.panMax ∧
      t.tmp.prodL + t.tmp.prodR = t.tmp.gain * t.tmp.elem * s.cfg.panMax

/-! ### The mixer -/

/-- ACCCLR (R185, derived there). -/
def Obligations.AccclrClears : Prop :=
  ∀ s : State, exec .accclr s = .next { s with accL := 0, accR := 0 }

/-- ACCADD: each accumulator becomes the ACC_W-bit signed value congruent to its sum with its product; nothing else
changes (R9, R186; the width and the wrap are the spec's own, D6). -/
def Obligations.AccaddWraps : Prop :=
  ∀ s : State, 1 ≤ s.cfg.accW → ∃ t, exec .accadd s = .next t ∧ t = { s with accL := t.accL, accR := t.accR } ∧
    SignedRange s.cfg.accW t.accL ∧ SignedRange s.cfg.accW t.accR ∧
    (2 : Int) ^ s.cfg.accW ∣ t.accL - (s.accL + s.tmp.prodL) ∧
    (2 : Int) ^ s.cfg.accW ∣ t.accR - (s.accR + s.tmp.prodR)

/-- PACK: bits [OUT_SHIFT + 15 : OUT_SHIFT] of each accumulator, the left channel in the high half unless LEFT_HIGH is
false; no saturation (R93, R187; the halves are the spec's own, D7). The transient that holds the word is the
model's (log 8). -/
def Obligations.PackFloorsAndMasks : Prop :=
  ∀ s : State, exec .pack s = .next { s with tmp := { s.tmp with frame := wordOf s.cfg s.accL s.accR } }

/-- The word does not depend on ACC_W: accumulators wrapped to any ACC_W ≥ OUT_SHIFT + 16 pack to the word of the exact
sums (R190). -/
def Obligations.WidthIndependence : Prop :=
  ∀ (s : State) (l r : Int), s.cfg.outShift + 16 ≤ s.cfg.accW → s.accL = wrapW s.cfg.accW l →
    s.accR = wrapW s.cfg.accW r →
    exec .pack s = .next { s with tmp := { s.tmp with frame := wordOf s.cfg l r } }

/-- Overload: in the word PACK returns for accumulators that hold the sums `l` and `r` wrapped to ACC_W bits, each
channel's half, read as signed, is the floor of its sum exactly when the sum is within
−2^(OUT_SHIFT+15) .. 2^(OUT_SHIFT+15) − 1 (R191; the transient that holds the word is the model's, log 8). -/
def Obligations.OverloadWrapsOutsideRange : Prop :=
  ∀ (s : State) (l r : Int), s.cfg.outShift + 16 ≤ s.cfg.accW → s.accL = wrapW s.cfg.accW l →
    s.accR = wrapW s.cfg.accW r → ∃ t, exec .pack s = .next t ∧
      ((leftHalf s.cfg t.tmp.frame).toInt = Int.fdiv l (2 ^ s.cfg.outShift) ↔
        -(2 : Int) ^ (s.cfg.outShift + 15) ≤ l ∧ l < (2 : Int) ^ (s.cfg.outShift + 15)) ∧
      ((rightHalf s.cfg t.tmp.frame).toInt = Int.fdiv r (2 ^ s.cfg.outShift) ↔
        -(2 : Int) ^ (s.cfg.outShift + 15) ≤ r ∧ r < (2 : Int) ^ (s.cfg.outShift + 15))

/-- MIXV: the element at the old offset, times (emph + volume) and the pan weights, goes into the accumulators, and the
offset steps; a voice whose sample is not valid changes nothing (R188; skipping it whole is the spec's own, D13). -/
def Obligations.MixvAccumulatesVoice : Prop :=
  ∀ (s : State) (v : VoiceField) (x : Voice), s.voices[v.toNat]? = some x →
    (∀ table e, s.cfg.samples[x.sample]? = some table → table[x.pos]? = some e →
      exec (.mixv v) s = .next { s with
        voices := s.voices.set v.toNat { x with pos :=
          if x.pos = 0 then 0 else if x.pos + 1 = table.length then 0 else x.pos + 1 }
        accL := wrapW s.cfg.accW (s.accL + ((x.emph : Int) + x.volume) * e.toInt * x.pan)
        accR := wrapW s.cfg.accW (s.accR + ((x.emph : Int) + x.volume) * e.toInt * ((s.cfg.panMax : Int) - x.pan))
        tmp := { s.tmp with
          elem := e.toInt
          gain := x.emph + x.volume
          prodL := ((x.emph : Int) + x.volume) * e.toInt * x.pan
          prodR := ((x.emph : Int) + x.volume) * e.toInt * ((s.cfg.panMax : Int) - x.pan) } }) ∧
    (s.cfg.samples.length ≤ x.sample → exec (.mixv v) s = .next s)

/-- GENFRAME completes: it mixes the voices as the triggers of this tick leave them, steps each, and returns the word of
the exact sums, whatever ACC_W is; it writes the Voice Bank, the accumulators and the transients only (R189, R190). -/
def Obligations.GenframeReturnsFrame : Prop :=
  ∀ s : State, Inv s → ∃ t, exec .genframe s = .next t ∧
    t = { s with voices := t.voices, accL := t.accL, accR := t.accR, tmp := t.tmp } ∧
    t.voices = (voicesAtFrame s).map (steppedVoice s.cfg) ∧
    t.accL = wrapW s.cfg.accW (leftSum s.cfg (voicesAtFrame s)) ∧
    t.accR = wrapW s.cfg.accW (rightSum s.cfg (voicesAtFrame s)) ∧
    t.tmp.frame = wordOf s.cfg (leftSum s.cfg (voicesAtFrame s)) (rightSum s.cfg (voicesAtFrame s))

/-- GENFRAME is its operations: TICKQ, TRIGSCAN at a tick start, ACCCLR, MIXV of every voice, PACK (R107, R189). The bound
on the voices is that of the OP word's voice field. -/
def Obligations.GenframeIsItsOperations : Prop :=
  ∀ s : State, s.cfg.nVoices ≤ 256 → exec .genframe s = runInstrs (frameOperations s.cfg s.timing) s

/-- GENFRAME is a function of the Timing State, the Voice Bank and the configuration (R195). -/
def Obligations.GenframeReadsOnlyItsInputs : Prop :=
  ∀ s t s' : State, s.cfg = t.cfg → s.timing = t.timing → s.voices = t.voices → exec .genframe s = .next s' →
    ∃ t', exec .genframe t = .next t' ∧ t'.voices = s'.voices ∧ t'.tmp.frame = s'.tmp.frame ∧
      t'.accL = s'.accL ∧ t'.accR = s'.accR

/-- Silence: if every voice mixed is idle and element 0 of its table is 0, the word is 0x00000000 (R194). -/
def Obligations.SilenceIsZeroWord : Prop :=
  ∀ s : State, Inv s → (∀ x ∈ voicesAtFrame s, x.pos = 0) →
    (∀ x ∈ voicesAtFrame s, ∀ table, s.cfg.samples[x.sample]? = some table → table[0]? = some 0) →
    ∃ t, exec .genframe s = .next t ∧ t.tmp.frame = 0x00000000#32

/-- The order in which the voices are mixed cannot be observed in the word, the accumulators or the Voice Bank (R192; the
ascending order is the spec's own, D20). -/
def Obligations.VoiceOrderIrrelevant : Prop :=
  ∀ (s : State) (vs : List VoiceField), Inv s → vs.Nodup → (∀ v ∈ vs, v.toNat < s.cfg.nVoices) →
    ∀ ws : List VoiceField, vs.Perm ws →
    ∃ t u, runInstrs (.accclr :: (vs.map Instr.mixv ++ [.pack])) s = .next t ∧
      runInstrs (.accclr :: (ws.map Instr.mixv ++ [.pack])) s = .next u ∧
      t.voices = u.voices ∧ t.accL = u.accL ∧ t.accR = u.accR ∧ t.tmp.frame = u.tmp.frame

/-! ### The ring -/

/-- FILLCHK: nothing changes when `filling == playing`; else the fill begins at frame 0 (R210). R210 has it enabled in
CHECK; that it also waits for PREFILL is the boot rule R271 (the spec's own, D10), kept in the model's bit `prefilled`
(log 9). -/
def Obligations.FillchkChecksRing : Prop :=
  ∀ s : State, s.prefilled = true → s.fillState = .check →
    (s.filling = s.playing → exec .fillchk s = .next s) ∧
    (s.filling ≠ s.playing → exec .fillchk s = .next { s with fillState := .writing, frameIdx := 0 })

/-- FILLFRM: the word GENFRAME returns goes to RING[filling][frameIdx] and nowhere else, the position advances, and the
last frame of the slot moves `filling` on and returns to CHECK; `playing` is not read and the device's side does not
change (R211, R231). -/
def Obligations.FillfrmWritesOneFrame : Prop :=
  ∀ s : State, Inv s → s.fillState = .writing →
    ∃ t u v, exec .fillfrm s = .next t ∧ exec .genframe s = .next u ∧ exec .advance u = .next v ∧
      t.ring.read (s.filling * s.cfg.bufferSize + s.frameIdx) = some u.tmp.frame ∧
      (∀ a, a ≠ s.filling * s.cfg.bufferSize + s.frameIdx → t.ring.read a = s.ring.read a) ∧
      t = { v with
        ring := t.ring
        filling := if s.frameIdx + 1 = s.cfg.bufferSize then (s.filling + 1) % s.cfg.nSlots else s.filling
        fillState := if s.frameIdx + 1 = s.cfg.bufferSize then .check else .writing
        frameIdx := if s.frameIdx + 1 = s.cfg.bufferSize then 0 else s.frameIdx + 1 }

/-- FILL: a no-op when the ring is full; else, whatever steps of the Output Device fall between its parts, it writes
exactly BUFFER_SIZE generated frames, in order, into slot `filling`, moves `filling` on by one slot and leaves every other
word alone (R212, the source's property S8.5), and the device too when no step of it falls there. FILL is not atomic: every
run of its parts with device steps between them is a run of FILL. That the steps that fall there are told to FILL in the
model's field `gaps` is the model's (log 14). -/
def Obligations.FillWritesOneSlot : Prop :=
  ∀ s : State, Inv s → s.prefilled = true → s.fillState = .check →
    (s.filling = s.playing → exec .fill s = .next s) ∧
    (s.filling ≠ s.playing → ∃ t u, exec .fill s = .next t ∧
      runInstrs (framesTrace s.cfg.bufferSize) s = .next u ∧
      t = { u with
        ring := t.ring, filling := (s.filling + 1) % s.cfg.nSlots, fillState := .check, frameIdx := 0,
        playing := t.playing, devRd := t.devRd, out := t.out, gaps := s.gaps.drop s.cfg.bufferSize } ∧
      (s.gaps = [] → t.playing = s.playing ∧ t.devRd = s.devRd ∧ t.out = s.out) ∧
      (∀ f < s.cfg.bufferSize, ∃ w, Generates s f w ∧ t.ring.read (s.filling * s.cfg.bufferSize + f) = some w) ∧
      (∀ a, ¬ (s.filling * s.cfg.bufferSize ≤ a ∧ a < s.filling * s.cfg.bufferSize + s.cfg.bufferSize) →
        t.ring.read a = s.ring.read a)) ∧
    (s.filling ≠ s.playing → ∀ (ds : List (List Instr)) (t : State), ds.length = s.cfg.bufferSize →
      (∀ d ∈ ds, ∀ i ∈ d, i = .devread ∨ i = .complete) →
      runInstrs (.fillchk :: ds.flatMap fun d => d ++ [.fillfrm]) s = .next t →
      exec .fill { s with gaps := ds.map List.length } = .next { t with gaps := [] })

/-- PREFILL: RING[s][f] = G(s × B + f) for all s and f, `filling` is 0 again, N × B frames have been generated and the
device's side is untouched (R222; that it makes no check is the spec's own, D10). -/
def Obligations.PrefillWritesEverySlot : Prop :=
  ∀ s : State, Inv s → s.prefilled = false → s.devActive = false →
    ∃ t u, exec .prefill s = .next t ∧
      runInstrs (framesTrace (s.cfg.nSlots * s.cfg.bufferSize)) s = .next u ∧
      t = { u with ring := t.ring, filling := 0, prefilled := true } ∧
      (∀ g < s.cfg.nSlots * s.cfg.bufferSize, ∃ w, Generates s g w ∧ t.ring.read g = some w) ∧
      (∀ a, s.cfg.nSlots * s.cfg.bufferSize ≤ a → t.ring.read a = s.ring.read a)

/-- START: `playing` moves on, the device is at word 0 and active; nothing else changes (R223; the hand-over is the spec's
own, D11). -/
def Obligations.StartHandsOverSlot : Prop :=
  ∀ s : State, s.prefilled = true → s.devActive = false →
    exec .start s = .next { s with playing := (s.playing + 1) % s.cfg.nSlots, devRd := 0, devActive := true }

/-- COMPLETE: `playing` moves on and the device is re-armed at word 0; it touches nothing of the fill engine (R220, R245;
that the advance comes first is the spec's own, D8). -/
def Obligations.CompleteRearmsDevice : Prop :=
  ∀ s : State, s.devActive = true → s.devRd = s.cfg.bufferSize →
    exec .complete s = .next { s with playing := (s.playing + 1) % s.cfg.nSlots, devRd := 0 }

/-- DEVREAD emits the word at the device's cursor and moves the cursor on; RING and everything else stay (R226; the
ascending order is the spec's own, D18). The slot is `playing`; under the switch STREAM_BEFORE_ADVANCE the one before
(C1; log 16). A word nothing has written since RESET is a free draw (U4; log 4). -/
def Obligations.DevreadEmitsWord : Prop :=
  ∀ (s : State) (slot : Nat), s.devActive = true → s.devRd < s.cfg.bufferSize → s.playing < s.cfg.nSlots →
    slot = (if s.cfg.streamBeforeAdvance then (s.playing + s.cfg.nSlots - 1) % s.cfg.nSlots else s.playing) →
    exec .devread s = .next { s with
      devRd := s.devRd + 1
      out := s.out ++ [(s.ring.read (slot * s.cfg.bufferSize + s.devRd)).getD
        (Config.freeRingWord s.resets (slot * s.cfg.bufferSize + s.devRd))] }

/-- A step taken while it is not enabled has no step, and stops by name: FILLCHK outside CHECK, FILLFRM outside WRITING,
both and FILL before PREFILL, COMPLETE without a pending completion, DEVREAD of an inactive or finished device, a
second PREFILL, START before PREFILL or twice (R210, R211, R220, R222, R223, R226, R271; the fault is the model's,
log 10). -/
def Obligations.StepsStopWhenNotEnabled : Prop :=
  ∀ s : State,
    ((s.prefilled = false ∨ s.fillState = .writing) → exec .fillchk s = .fault (.notEnabled .fillchk) ∧
      exec .fill s = .fault (.notEnabled .fillchk)) ∧
    ((s.prefilled = false ∨ s.fillState = .check) → exec .fillfrm s = .fault (.notEnabled .fillfrm)) ∧
    ((s.devActive = false ∨ s.devRd ≠ s.cfg.bufferSize) → exec .complete s = .fault (.notEnabled .complete)) ∧
    ((s.devActive = false ∨ s.cfg.bufferSize ≤ s.devRd) → exec .devread s = .fault (.notEnabled .devread)) ∧
    ((s.prefilled = true ∨ s.devActive = true) → exec .prefill s = .fault (.notEnabled .prefill)) ∧
    ((s.prefilled = false ∨ s.devActive = true) → exec .start s = .fault (.notEnabled .start))

/-- The completion signal: pending after exactly BUFFER_SIZE words of a slot and not before, so two COMPLETE steps are
always separated by the device's reading of a whole slot (R46, R227, R246): for the device's reads taken one after the
other, which complete, and for every run that mixes them with the fill engine's steps. That COMPLETE before then answers
the fault `notEnabled` is the model's choice (log 10); the spec says that it does not occur. -/
def Obligations.CompletionsDoNotNest : Prop :=
  ∀ s t : State, Inv s → exec .complete s = .next t →
    (∀ k ≤ s.cfg.bufferSize, ∃ u, runInstrs (List.replicate k .devread) t = .next u ∧
      (completionPending u = true ↔ k = s.cfg.bufferSize) ∧
      (k < s.cfg.bufferSize → exec .complete u = .fault (.notEnabled .complete))) ∧
    (∀ (is : List Instr) (u : State), (∀ i ∈ is, i = .fillchk ∨ i = .fillfrm ∨ i = .devread) →
      runInstrs is t = .next u → (completionPending u = true ↔ is.count .devread = s.cfg.bufferSize))

/-- The words leave RING in the order of its places (R228). Each step of the agents appends to the output the word at the
device's place if it is DEVREAD and nothing otherwise, and moves that place on by the number of words appended, modulo
N × B; and so does every run of them. A FILL into which device steps fall appends what they emit (which words, says
FillWritesOneSlot) and moves the place on likewise; the first two clauses take FILL with none (log 14). -/
def Obligations.DeviceStreamsInRingOrder : Prop :=
  (∀ (i : Instr) (s t : State), Inv s → isRunStep i = true → (i = .fill → s.gaps = []) → exec i s = .next t →
    t.out = s.out ++ (if i = .devread then [ringWord s (ringIndex s.cfg (streamSlot s) s.devRd)] else []) ∧
    devicePlace t % (s.cfg.nSlots * s.cfg.bufferSize)
      = (devicePlace s + (if i = .devread then 1 else 0)) % (s.cfg.nSlots * s.cfg.bufferSize)) ∧
  (∀ (is : List Instr) (s t : State), Inv s → (∀ i ∈ is, isRunStep i = true) → (.fill ∈ is → s.gaps = []) →
    runInstrs is s = .next t → t.out = s.out ++ emittedBy is s ∧ (emittedBy is s).length = is.count .devread ∧
    devicePlace t % (s.cfg.nSlots * s.cfg.bufferSize)
      = (devicePlace s + is.count .devread) % (s.cfg.nSlots * s.cfg.bufferSize)) ∧
  (∀ s t : State, Inv s → exec .fill s = .next t → ∃ ws, t.out = s.out ++ ws ∧
    devicePlace t % (s.cfg.nSlots * s.cfg.bufferSize)
      = (devicePlace s + ws.length) % (s.cfg.nSlots * s.cfg.bufferSize))

/-- The accepted race is a run of the machine: after boot there is a sequence of steps at whose end `playing == filling`
while a fill is in progress (R231). -/
def Obligations.RaceIsReachable : Prop :=
  ∀ c : Cfg, c.wf = true → ∃ is t, (∀ i ∈ is, isRunStep i = true ∧ i ≠ .fill) ∧
    runInstrs (bootTrace ++ is) (State.resetWith c) = .next t ∧ Inv t ∧ t.fillState = .writing ∧ t.filling = t.playing

/-- Starvation: with no step of the fill engine the device streams the whole ring, from the first word of its slot round
to the word before it, and then the same words again, and nothing records it (R232). -/
def Obligations.StarvedDeviceReplaysRing : Prop :=
  ∀ (s : State) (ws : List FrameWord), Inv s → s.devActive = true → s.devRd = 0 →
    ws = (List.range (s.cfg.nSlots * s.cfg.bufferSize)).map (fun i =>
      ringWord s ((ringIndex s.cfg (streamSlot s) 0 + i) % (s.cfg.nSlots * s.cfg.bufferSize))) →
    runInstrs (repeatTrace s.cfg.nSlots (starvedSlot s.cfg)) s = .next { s with out := s.out ++ ws } ∧
    runInstrs (repeatTrace (2 * s.cfg.nSlots) (starvedSlot s.cfg)) s = .next { s with out := s.out ++ ws ++ ws }

/-- Every kept-up run emits exactly the generated stream (R230): from reset and boot, any interleaving of the agents' steps
with the fill engine in CHECK and `filling == playing` at each COMPLETE emits G(0), G(1), … in order, without loss,
repetition or reordering. Such runs exist for any length: n slots, each streamed, completed and refilled by a FILL into
which no device step falls (log 14), complete and emit n × B words. Stated for the spec's setting of STREAM_BEFORE_ADVANCE (log 16). -/
def Obligations.KeptUpRunEmitsGeneratedStream : Prop :=
  ∀ c : Cfg, c.wf = true → c.streamBeforeAdvance = false →
    (∀ (is : List Instr) (b t : State), runInstrs bootTrace (State.resetWith c) = .next b →
      (∀ i ∈ is, isRunStep i = true) → keptUp is b = true → runInstrs is b = .next t →
      t.out.length = is.count .devread ∧
      ∀ k < t.out.length, ∃ w, t.out[k]? = some w ∧ Generates (State.resetWith c) k w) ∧
    (∀ n : Nat, ∃ b t, runInstrs bootTrace (State.resetWith c) = .next b ∧
      keptUp (repeatTrace n (keptUpSlot c)) b = true ∧ runInstrs (repeatTrace n (keptUpSlot c)) b = .next t ∧
      t.out.length = n * c.bufferSize)

/-! ### Reset and boot -/

/-- RESET gives the table of R49 from any state (R270; the values the source does not give are the spec's own, D9, D12,
D18, D24). The accumulators and RING are not mentioned but for RING being unwritten: what they hold is free (logs 3,
4). What is not the block's stays (log 23). -/
def Obligations.ResetGivesTable : Prop :=
  ∀ s : State, ∃ t, exec .reset s = .next t ∧
    t.timing = { bar := 0, tickOfBar := 0, sampleOfTick := 0 } ∧
    t.voices = s.cfg.voices.map (fun y => { pan := y.pan, volume := y.volume, sample := y.sample, pos := 0, emph := 0 }) ∧
    t.playing = s.cfg.nSlots - 1 ∧ t.filling = 0 ∧ t.fillState = .check ∧ t.frameIdx = 0 ∧
    t.devActive = false ∧ t.devRd = 0 ∧ t.prefilled = false ∧ (∀ a, t.ring.read a = none) ∧
    t.cfg = s.cfg ∧ t.tmp = s.tmp ∧ t.cmds = s.cmds ∧ t.turn = s.turn ∧ t.gaps = s.gaps ∧ t.out = s.out

/-- The boot sequence RESET; PREFILL; START gives the table of R272 from any state with a well-formed configuration: every
word of RING is the generated word of its place, `filling` and `playing` are 0, the device is active, and the
invariant holds (R272; D9, D10, D11). -/
def Obligations.BootReachesTable : Prop :=
  ∀ s : State, s.cfg.wf = true → ∃ r t, exec .reset s = .next r ∧ runInstrs bootTrace s = .next t ∧ Inv t ∧
    t.filling = 0 ∧ t.playing = 0 ∧ t.fillState = .check ∧ t.frameIdx = 0 ∧ t.devActive = true ∧ t.devRd = 0 ∧
    positionNumber t.cfg t.timing = s.cfg.nSlots * s.cfg.bufferSize % period s.cfg ∧
    (∃ u, runInstrs (framesTrace (s.cfg.nSlots * s.cfg.bufferSize)) r = .next u ∧ t.voices = u.voices) ∧
    ∀ g < s.cfg.nSlots * s.cfg.bufferSize, ∃ w, Generates r g w ∧ t.ring.read g = some w

/-! ### The whole machine -/

/-- The invariant holds at reset, for the reset state's configuration. -/
def Obligations.InvHoldsAtReset : Prop := Inv State.reset

/-- The invariant holds right after reset for every well-formed configuration (R7, R49). -/
def Obligations.InvHoldsAtResetOfEveryCfg : Prop := ∀ c : Cfg, c.wf = true → Inv (State.resetWith c)

/-- Every step keeps the invariant: the position in range (R24), every offset inside its table and every emphasis a
multiple of the step up to 8 (R32, R156), the indices in range (R36, R37), the fill micro-state (R44), the device's
cursor (R45), the boot order (R271, R272) and RING's form. -/
def Obligations.StepKeepsInv : Prop :=
  ∀ s t : State, Inv s → step s = .next t → Inv t

/-- The machine never stops by itself: from every state of the invariant, with nothing scheduled from outside, the step
answers a next state, for every schedule (R213, R240, R283). -/
def Obligations.OwnStepNeverStops : Prop :=
  ∀ s : State, Inv s → s.cmds = [] → ∃ t, step s = .next t ∧ Inv t ∧ t.cmds = []

/-- Every operation completes: in a state of the invariant an instruction whose voice exists and whose step is enabled
answers a next state, and no exceptional outcome (R240). -/
def Obligations.EnabledInstrCompletes : Prop :=
  ∀ (i : Instr) (s : State), Inv s → i.wf s.cfg.nVoices = true → runnable s i = true → ∃ t, exec i s = .next t

/-- The configuration, with the read-only memories, never changes (R20, R39, R72, R79), and no operation but RESET writes
`pan`, `volume` or `sample` of a voice (R27 to R29, R33). -/
def Obligations.StaticStateNeverChanges : Prop :=
  ∀ (i : Instr) (s t : State), exec i s = .next t → t.cfg = s.cfg ∧
    (i ≠ .reset → t.voices.map staticOf = s.voices.map staticOf)

/-- The single-writer discipline: the device's steps write `playing`, `devRd`, `devActive` and the output stream and
nothing else, and nothing but RESET writes those from the other side; RING and `filling` are written only by FILLFRM,
FILL, PREFILL and RESET, `fillState` and `frameIdx` only by FILLCHK, FILLFRM, FILL and RESET; no instruction writes
the schedule, and only FILL uses up its gaps. What the device's steps that fall into a FILL write is theirs (R212, log 14;
FillWritesOneSlot), so FILL's own side is told by the FILL with none (R72, R81, R248). -/
def Obligations.SingleWriterDiscipline : Prop :=
  ∀ (i : Instr) (s t : State), exec i s = .next t →
    (isDeviceStep i = true →
      t = { s with playing := t.playing, devRd := t.devRd, devActive := t.devActive, out := t.out }) ∧
    (isDeviceStep i = false → (i = .fill → s.gaps = []) → t.out = s.out ∧ (i ≠ .reset →
      t.playing = s.playing ∧ t.devRd = s.devRd ∧ t.devActive = s.devActive)) ∧
    (i ∉ [Instr.fillfrm, .fill, .prefill, .reset] → t.ring = s.ring ∧ t.filling = s.filling) ∧
    (i ∉ [Instr.fillchk, .fillfrm, .fill, .reset] → t.fillState = s.fillState ∧ t.frameIdx = s.frameIdx) ∧
    (i ∉ [Instr.prefill, .reset] → t.prefilled = s.prefilled) ∧ (i ≠ .reset → t.resets = s.resets) ∧
    t.cmds = s.cmds ∧ t.turn = s.turn ∧ (i ≠ .fill → t.gaps = s.gaps)

/-- The writers of the Timing State (R25: ADVANCE alone, inside FILLFRM, FILL and PREFILL too, and RESET), of the Voice
Bank and of the accumulators (R33, R185 to R189): `pos` and `emph` only by the symbols,
TRIGSCAN, VSTEP, MIXV and what contains them; `emph` not by VSTEP or MIXV; the accumulators only by ACCCLR, ACCADD,
MIXV and what contains them. -/
def Obligations.DataPathWriters : Prop :=
  ∀ (i : Instr) (s t : State), exec i s = .next t →
    (i ∈ [Instr.tickq, .advance, .accclr, .accadd, .pack, .fillchk, .complete, .devread, .start] ∨
      (∃ v, i = .nohit v ∨ i = .vfetch v ∨ i = .gain v ∨ i = .panmul v) → t.voices = s.voices) ∧
    ((∃ v, i = .vstep v ∨ i = .mixv v) → t.voices.map Voice.emph = s.voices.map Voice.emph) ∧
    (i ∉ [Instr.accclr, .accadd, .genframe, .fillfrm, .fill, .prefill, .reset] → (∀ v, i ≠ .mixv v) →
      t.accL = s.accL ∧ t.accR = s.accR) ∧
    (i ∉ [Instr.advance, .fillfrm, .fill, .prefill, .reset] → t.timing = s.timing)

/-- Every register of R20, the accumulators with ACC_W signed bits among them, is within its width in every state of the
invariant (D5, D6: the widths are the spec's own). -/
def Obligations.RegistersFitWidths : Prop := ∀ s : State, Inv s → FitsWidths s

/-! ### Arithmetic -/

/-- `wrap_W(x)` is the W-bit signed value congruent to x modulo 2^W, and the arithmetic shift is the floor of the division
(R9). -/
def Obligations.WrapAndShiftAreAsDefined : Prop :=
  (∀ (W : Nat) (x : Int), 1 ≤ W → SignedRange W (wrapW W x) ∧ (2 : Int) ^ W ∣ wrapW W x - x ∧
    ∀ y, SignedRange W y → (2 : Int) ^ W ∣ y - x → y = wrapW W x) ∧
  (∀ (x : Int) (n : Nat), asr x n * 2 ^ n ≤ x ∧ x < (asr x n + 1) * 2 ^ n)
end

