-- ==== Sys2Proof/Laws/Arith.lean ====
section
/-! SUPPORT. The laws of the arithmetic of R9: the wrap, the floor shift, the channel value. -/

namespace Sys2Proof.Machine

open Sys2Proof.Safety

/-- A wrapped value is a signed W-bit value (R9). -/
theorem wrapW_range {W : Nat} (hW : 0 < W) (x : Int) : SignedRange W (wrapW W x) := by
  obtain ⟨k, rfl⟩ : ∃ k, W = k + 1 := ⟨W - 1, by omega⟩
  have hp : (0 : Int) < 2 ^ k := by positivity
  have h1 := @Int.le_bmod x (2 ^ (k + 1)) (by positivity)
  have h2 := @Int.bmod_lt x (2 ^ (k + 1)) (by positivity)
  have e : ((2 ^ (k + 1) : Nat) : Int) = 2 * 2 ^ k := by push_cast; ring
  rw [e] at h1 h2
  simp only [SignedRange, wrapW, Nat.add_sub_cancel]
  omega

/-- A wrapped value is congruent to the value modulo 2^W (R9). -/
theorem wrapW_emod (W : Nat) (x : Int) : wrapW W x % 2 ^ W = x % 2 ^ W := by
  have h := @Int.bmod_emod x (2 ^ W)
  simpa [wrapW] using h

/-- Wrapping before a sum changes nothing after the wrap (R186). -/
theorem wrapW_wrapW_add (W : Nat) (x y : Int) : wrapW W (wrapW W x + y) = wrapW W (x + y) := by
  unfold wrapW
  exact Int.bmod_add_bmod

/-- The channel value depends only on the accumulator modulo 2^ACC_W (R190). -/
theorem channel_wrapW {c : Cfg} (h : c.outShift + 16 ≤ c.accW) (x : Int) :
    channel c (wrapW c.accW x) = channel c x := by
  have hx := wrapW_emod c.accW x
  obtain ⟨q, hq⟩ : (2 : Int) ^ c.accW ∣ wrapW c.accW x - x := 
    Int.dvd_of_emod_eq_zero (Int.emod_eq_emod_iff_emod_sub_eq_zero.mp hx)
  obtain ⟨d, hd⟩ : ∃ d, c.accW = c.outShift + 16 + d := ⟨c.accW - (c.outShift + 16), by omega⟩
  have hw : wrapW c.accW x = x + 2 ^ c.outShift * (2 ^ 16 * (2 ^ d * q)) := by
    have : wrapW c.accW x = x + 2 ^ c.accW * q := by omega
    rw [this, hd, pow_add, pow_add]; ring
  have hp : (2 : Int) ^ c.outShift ≠ 0 := by positivity
  unfold channel low16 asr
  rw [hw, Int.add_mul_ediv_left _ _ hp]
  apply BitVec.eq_of_toInt_eq
  simp only [BitVec.toInt_ofInt]
  have : ((2 ^ 16 : Nat) : Int) = 2 ^ 16 := by norm_num
  rw [← this, Int.add_mul_bmod_self_left]

/-- The floor of R9 and the channel value of R187. -/
theorem channel_eq_fieldOf (c : Cfg) (x : Int) : channel c x = fieldOf c x := by
  unfold channel low16 asr fieldOf
  rw [Int.fdiv_eq_ediv_of_nonneg _ (by positivity)]

/-- `clog2(n)` bits hold every value below n (R9, D5). -/
theorem lt_two_pow_clog2 {n x : Nat} (h : x < n) : x < 2 ^ clog2 n := by
  have key : n ≤ 2 ^ (((List.range (n + 1)).find? fun w => n ≤ 2 ^ w).getD n) := by
    cases hf : (List.range (n + 1)).find? fun w => n ≤ 2 ^ w with
    | none => exact Nat.le_of_lt n.lt_two_pow_self
    | some w => simpa using List.find?_some hf
  refine Nat.lt_of_lt_of_le h (Nat.le_trans key (Nat.pow_le_pow_right (by decide) ?_))
  exact Nat.le_max_right _ _

end Sys2Proof.Machine
end

