-- ==== Sys2Proof/Laws/Decode.lean ====
section
/-! SUPPORT. The fields of an OP word: assembling them and reading them back are inverse. -/

namespace Sys2Proof

/-- The bits of an assembled word: `op`, three zeros, `v`. -/
theorem getLsbD_opWord (op : BitVec 5) (v : VoiceField) (i : Nat) : (opWord op v).getLsbD i =
    if i < 8 then (if i < 5 then op.getLsbD i else false) else v.getLsbD (i - 8) := by
  unfold opWord
  rw [BitVec.getLsbD_append]
  split
  · rw [BitVec.getLsbD_append, BitVec.getLsbD_zero]
  · rfl

/-- Reading the fields of an assembled word gives the fields back. -/
theorem opField_opWord (op : BitVec 5) (v : VoiceField) : OpWord.opField (opWord op v) = op := by
  apply BitVec.eq_of_getLsbD_eq
  intro i hi
  rw [OpWord.opField, BitVec.getLsbD_extractLsb', getLsbD_opWord]
  simp [hi, show i < 8 by omega]

theorem zeroField_opWord (op : BitVec 5) (v : VoiceField) : OpWord.zeroField (opWord op v) = 0 := by
  apply BitVec.eq_of_getLsbD_eq
  intro i hi
  rw [OpWord.zeroField, BitVec.getLsbD_extractLsb', getLsbD_opWord]
  simp [show 5 + i < 8 by omega]

theorem voiceField_opWord (op : BitVec 5) (v : VoiceField) : OpWord.voiceField (opWord op v) = v := by
  apply BitVec.eq_of_getLsbD_eq
  intro i hi
  rw [OpWord.voiceField, BitVec.getLsbD_extractLsb', getLsbD_opWord]
  simp [hi]

/-- A word whose zero field is 0 is its fields assembled. -/
theorem opWord_fields (w : OpWord) (h : OpWord.zeroField w = 0) :
    w = opWord (OpWord.opField w) (OpWord.voiceField w) := by
  have hz : ∀ j, j < 3 → w.getLsbD (5 + j) = false := by
    intro j hj
    have := congrArg (fun x => x.getLsbD j) h
    simpa [OpWord.zeroField, hj] using this
  apply BitVec.eq_of_getLsbD_eq
  intro i hi
  rw [getLsbD_opWord, OpWord.opField, OpWord.voiceField, BitVec.getLsbD_extractLsb', BitVec.getLsbD_extractLsb']
  by_cases h8 : i < 8
  · by_cases h5 : i < 5
    · simp [h8, h5]
    · have := hz (i - 5) (by omega)
      rw [show 5 + (i - 5) = i by omega] at this
      simp [h8, h5, this]
  · simp [h8, show i - 8 < 8 by omega, show 8 + (i - 8) = i by omega]

end Sys2Proof
end

