-- ==== Sys2Proof/Laws/State.lean ====
section
/-! SUPPORT. What each update of State leaves in each field. -/

namespace Sys2Proof.Machine

@[simp] theorem State.setTiming_cfg (s : State) (x : Timing) : (s.setTiming x).cfg = s.cfg := rfl
@[simp] theorem State.setTiming_timing (s : State) (x : Timing) : (s.setTiming x).timing = x := rfl
@[simp] theorem State.setTiming_voices (s : State) (x : Timing) : (s.setTiming x).voices = s.voices := rfl
@[simp] theorem State.setTiming_accL (s : State) (x : Timing) : (s.setTiming x).accL = s.accL := rfl
@[simp] theorem State.setTiming_accR (s : State) (x : Timing) : (s.setTiming x).accR = s.accR := rfl
@[simp] theorem State.setTiming_playing (s : State) (x : Timing) : (s.setTiming x).playing = s.playing := rfl
@[simp] theorem State.setTiming_filling (s : State) (x : Timing) : (s.setTiming x).filling = s.filling := rfl
@[simp] theorem State.setTiming_ring (s : State) (x : Timing) : (s.setTiming x).ring = s.ring := rfl
@[simp] theorem State.setTiming_fillState (s : State) (x : Timing) : (s.setTiming x).fillState = s.fillState := rfl
@[simp] theorem State.setTiming_frameIdx (s : State) (x : Timing) : (s.setTiming x).frameIdx = s.frameIdx := rfl
@[simp] theorem State.setTiming_devActive (s : State) (x : Timing) : (s.setTiming x).devActive = s.devActive := rfl
@[simp] theorem State.setTiming_devRd (s : State) (x : Timing) : (s.setTiming x).devRd = s.devRd := rfl
@[simp] theorem State.setTiming_prefilled (s : State) (x : Timing) : (s.setTiming x).prefilled = s.prefilled := rfl
@[simp] theorem State.setTiming_resets (s : State) (x : Timing) : (s.setTiming x).resets = s.resets := rfl
@[simp] theorem State.setTiming_tmp (s : State) (x : Timing) : (s.setTiming x).tmp = s.tmp := rfl
@[simp] theorem State.setTiming_cmds (s : State) (x : Timing) : (s.setTiming x).cmds = s.cmds := rfl
@[simp] theorem State.setTiming_turn (s : State) (x : Timing) : (s.setTiming x).turn = s.turn := rfl
@[simp] theorem State.setTiming_gaps (s : State) (x : Timing) : (s.setTiming x).gaps = s.gaps := rfl
@[simp] theorem State.setTiming_out (s : State) (x : Timing) : (s.setTiming x).out = s.out := rfl

@[simp] theorem State.setVoices_cfg (s : State) (x : List Voice) : (s.setVoices x).cfg = s.cfg := rfl
@[simp] theorem State.setVoices_timing (s : State) (x : List Voice) : (s.setVoices x).timing = s.timing := rfl
@[simp] theorem State.setVoices_voices (s : State) (x : List Voice) : (s.setVoices x).voices = x := rfl
@[simp] theorem State.setVoices_accL (s : State) (x : List Voice) : (s.setVoices x).accL = s.accL := rfl
@[simp] theorem State.setVoices_accR (s : State) (x : List Voice) : (s.setVoices x).accR = s.accR := rfl
@[simp] theorem State.setVoices_playing (s : State) (x : List Voice) : (s.setVoices x).playing = s.playing := rfl
@[simp] theorem State.setVoices_filling (s : State) (x : List Voice) : (s.setVoices x).filling = s.filling := rfl
@[simp] theorem State.setVoices_ring (s : State) (x : List Voice) : (s.setVoices x).ring = s.ring := rfl
@[simp] theorem State.setVoices_fillState (s : State) (x : List Voice) : (s.setVoices x).fillState = s.fillState := rfl
@[simp] theorem State.setVoices_frameIdx (s : State) (x : List Voice) : (s.setVoices x).frameIdx = s.frameIdx := rfl
@[simp] theorem State.setVoices_devActive (s : State) (x : List Voice) : (s.setVoices x).devActive = s.devActive := rfl
@[simp] theorem State.setVoices_devRd (s : State) (x : List Voice) : (s.setVoices x).devRd = s.devRd := rfl
@[simp] theorem State.setVoices_prefilled (s : State) (x : List Voice) : (s.setVoices x).prefilled = s.prefilled := rfl
@[simp] theorem State.setVoices_resets (s : State) (x : List Voice) : (s.setVoices x).resets = s.resets := rfl
@[simp] theorem State.setVoices_tmp (s : State) (x : List Voice) : (s.setVoices x).tmp = s.tmp := rfl
@[simp] theorem State.setVoices_cmds (s : State) (x : List Voice) : (s.setVoices x).cmds = s.cmds := rfl
@[simp] theorem State.setVoices_turn (s : State) (x : List Voice) : (s.setVoices x).turn = s.turn := rfl
@[simp] theorem State.setVoices_gaps (s : State) (x : List Voice) : (s.setVoices x).gaps = s.gaps := rfl
@[simp] theorem State.setVoices_out (s : State) (x : List Voice) : (s.setVoices x).out = s.out := rfl

@[simp] theorem State.setAcc_cfg (s : State) (l r : Int) : (s.setAcc l r).cfg = s.cfg := rfl
@[simp] theorem State.setAcc_timing (s : State) (l r : Int) : (s.setAcc l r).timing = s.timing := rfl
@[simp] theorem State.setAcc_voices (s : State) (l r : Int) : (s.setAcc l r).voices = s.voices := rfl
@[simp] theorem State.setAcc_accL (s : State) (l r : Int) : (s.setAcc l r).accL = l := rfl
@[simp] theorem State.setAcc_accR (s : State) (l r : Int) : (s.setAcc l r).accR = r := rfl
@[simp] theorem State.setAcc_playing (s : State) (l r : Int) : (s.setAcc l r).playing = s.playing := rfl
@[simp] theorem State.setAcc_filling (s : State) (l r : Int) : (s.setAcc l r).filling = s.filling := rfl
@[simp] theorem State.setAcc_ring (s : State) (l r : Int) : (s.setAcc l r).ring = s.ring := rfl
@[simp] theorem State.setAcc_fillState (s : State) (l r : Int) : (s.setAcc l r).fillState = s.fillState := rfl
@[simp] theorem State.setAcc_frameIdx (s : State) (l r : Int) : (s.setAcc l r).frameIdx = s.frameIdx := rfl
@[simp] theorem State.setAcc_devActive (s : State) (l r : Int) : (s.setAcc l r).devActive = s.devActive := rfl
@[simp] theorem State.setAcc_devRd (s : State) (l r : Int) : (s.setAcc l r).devRd = s.devRd := rfl
@[simp] theorem State.setAcc_prefilled (s : State) (l r : Int) : (s.setAcc l r).prefilled = s.prefilled := rfl
@[simp] theorem State.setAcc_resets (s : State) (l r : Int) : (s.setAcc l r).resets = s.resets := rfl
@[simp] theorem State.setAcc_tmp (s : State) (l r : Int) : (s.setAcc l r).tmp = s.tmp := rfl
@[simp] theorem State.setAcc_cmds (s : State) (l r : Int) : (s.setAcc l r).cmds = s.cmds := rfl
@[simp] theorem State.setAcc_turn (s : State) (l r : Int) : (s.setAcc l r).turn = s.turn := rfl
@[simp] theorem State.setAcc_gaps (s : State) (l r : Int) : (s.setAcc l r).gaps = s.gaps := rfl
@[simp] theorem State.setAcc_out (s : State) (l r : Int) : (s.setAcc l r).out = s.out := rfl

@[simp] theorem State.setRing_cfg (s : State) (x : Ring) : (s.setRing x).cfg = s.cfg := rfl
@[simp] theorem State.setRing_timing (s : State) (x : Ring) : (s.setRing x).timing = s.timing := rfl
@[simp] theorem State.setRing_voices (s : State) (x : Ring) : (s.setRing x).voices = s.voices := rfl
@[simp] theorem State.setRing_accL (s : State) (x : Ring) : (s.setRing x).accL = s.accL := rfl
@[simp] theorem State.setRing_accR (s : State) (x : Ring) : (s.setRing x).accR = s.accR := rfl
@[simp] theorem State.setRing_playing (s : State) (x : Ring) : (s.setRing x).playing = s.playing := rfl
@[simp] theorem State.setRing_filling (s : State) (x : Ring) : (s.setRing x).filling = s.filling := rfl
@[simp] theorem State.setRing_ring (s : State) (x : Ring) : (s.setRing x).ring = x := rfl
@[simp] theorem State.setRing_fillState (s : State) (x : Ring) : (s.setRing x).fillState = s.fillState := rfl
@[simp] theorem State.setRing_frameIdx (s : State) (x : Ring) : (s.setRing x).frameIdx = s.frameIdx := rfl
@[simp] theorem State.setRing_devActive (s : State) (x : Ring) : (s.setRing x).devActive = s.devActive := rfl
@[simp] theorem State.setRing_devRd (s : State) (x : Ring) : (s.setRing x).devRd = s.devRd := rfl
@[simp] theorem State.setRing_prefilled (s : State) (x : Ring) : (s.setRing x).prefilled = s.prefilled := rfl
@[simp] theorem State.setRing_resets (s : State) (x : Ring) : (s.setRing x).resets = s.resets := rfl
@[simp] theorem State.setRing_tmp (s : State) (x : Ring) : (s.setRing x).tmp = s.tmp := rfl
@[simp] theorem State.setRing_cmds (s : State) (x : Ring) : (s.setRing x).cmds = s.cmds := rfl
@[simp] theorem State.setRing_turn (s : State) (x : Ring) : (s.setRing x).turn = s.turn := rfl
@[simp] theorem State.setRing_gaps (s : State) (x : Ring) : (s.setRing x).gaps = s.gaps := rfl
@[simp] theorem State.setRing_out (s : State) (x : Ring) : (s.setRing x).out = s.out := rfl

@[simp] theorem State.setFilling_cfg (s : State) (x : Nat) : (s.setFilling x).cfg = s.cfg := rfl
@[simp] theorem State.setFilling_timing (s : State) (x : Nat) : (s.setFilling x).timing = s.timing := rfl
@[simp] theorem State.setFilling_voices (s : State) (x : Nat) : (s.setFilling x).voices = s.voices := rfl
@[simp] theorem State.setFilling_accL (s : State) (x : Nat) : (s.setFilling x).accL = s.accL := rfl
@[simp] theorem State.setFilling_accR (s : State) (x : Nat) : (s.setFilling x).accR = s.accR := rfl
@[simp] theorem State.setFilling_playing (s : State) (x : Nat) : (s.setFilling x).playing = s.playing := rfl
@[simp] theorem State.setFilling_filling (s : State) (x : Nat) : (s.setFilling x).filling = x := rfl
@[simp] theorem State.setFilling_ring (s : State) (x : Nat) : (s.setFilling x).ring = s.ring := rfl
@[simp] theorem State.setFilling_fillState (s : State) (x : Nat) : (s.setFilling x).fillState = s.fillState := rfl
@[simp] theorem State.setFilling_frameIdx (s : State) (x : Nat) : (s.setFilling x).frameIdx = s.frameIdx := rfl
@[simp] theorem State.setFilling_devActive (s : State) (x : Nat) : (s.setFilling x).devActive = s.devActive := rfl
@[simp] theorem State.setFilling_devRd (s : State) (x : Nat) : (s.setFilling x).devRd = s.devRd := rfl
@[simp] theorem State.setFilling_prefilled (s : State) (x : Nat) : (s.setFilling x).prefilled = s.prefilled := rfl
@[simp] theorem State.setFilling_resets (s : State) (x : Nat) : (s.setFilling x).resets = s.resets := rfl
@[simp] theorem State.setFilling_tmp (s : State) (x : Nat) : (s.setFilling x).tmp = s.tmp := rfl
@[simp] theorem State.setFilling_cmds (s : State) (x : Nat) : (s.setFilling x).cmds = s.cmds := rfl
@[simp] theorem State.setFilling_turn (s : State) (x : Nat) : (s.setFilling x).turn = s.turn := rfl
@[simp] theorem State.setFilling_gaps (s : State) (x : Nat) : (s.setFilling x).gaps = s.gaps := rfl
@[simp] theorem State.setFilling_out (s : State) (x : Nat) : (s.setFilling x).out = s.out := rfl

@[simp] theorem State.setFill_cfg (s : State) (x : FillState) (n : Nat) : (s.setFill x n).cfg = s.cfg := rfl
@[simp] theorem State.setFill_timing (s : State) (x : FillState) (n : Nat) : (s.setFill x n).timing = s.timing := rfl
@[simp] theorem State.setFill_voices (s : State) (x : FillState) (n : Nat) : (s.setFill x n).voices = s.voices := rfl
@[simp] theorem State.setFill_accL (s : State) (x : FillState) (n : Nat) : (s.setFill x n).accL = s.accL := rfl
@[simp] theorem State.setFill_accR (s : State) (x : FillState) (n : Nat) : (s.setFill x n).accR = s.accR := rfl
@[simp] theorem State.setFill_playing (s : State) (x : FillState) (n : Nat) : (s.setFill x n).playing = s.playing := rfl
@[simp] theorem State.setFill_filling (s : State) (x : FillState) (n : Nat) : (s.setFill x n).filling = s.filling := rfl
@[simp] theorem State.setFill_ring (s : State) (x : FillState) (n : Nat) : (s.setFill x n).ring = s.ring := rfl
@[simp] theorem State.setFill_fillState (s : State) (x : FillState) (n : Nat) : (s.setFill x n).fillState = x := rfl
@[simp] theorem State.setFill_frameIdx (s : State) (x : FillState) (n : Nat) : (s.setFill x n).frameIdx = n := rfl
@[simp] theorem State.setFill_devActive (s : State) (x : FillState) (n : Nat) : (s.setFill x n).devActive = s.devActive := rfl
@[simp] theorem State.setFill_devRd (s : State) (x : FillState) (n : Nat) : (s.setFill x n).devRd = s.devRd := rfl
@[simp] theorem State.setFill_prefilled (s : State) (x : FillState) (n : Nat) : (s.setFill x n).prefilled = s.prefilled := rfl
@[simp] theorem State.setFill_resets (s : State) (x : FillState) (n : Nat) : (s.setFill x n).resets = s.resets := rfl
@[simp] theorem State.setFill_tmp (s : State) (x : FillState) (n : Nat) : (s.setFill x n).tmp = s.tmp := rfl
@[simp] theorem State.setFill_cmds (s : State) (x : FillState) (n : Nat) : (s.setFill x n).cmds = s.cmds := rfl
@[simp] theorem State.setFill_turn (s : State) (x : FillState) (n : Nat) : (s.setFill x n).turn = s.turn := rfl
@[simp] theorem State.setFill_gaps (s : State) (x : FillState) (n : Nat) : (s.setFill x n).gaps = s.gaps := rfl
@[simp] theorem State.setFill_out (s : State) (x : FillState) (n : Nat) : (s.setFill x n).out = s.out := rfl

@[simp] theorem State.setCursor_cfg (s : State) (p d : Nat) : (s.setCursor p d).cfg = s.cfg := rfl
@[simp] theorem State.setCursor_timing (s : State) (p d : Nat) : (s.setCursor p d).timing = s.timing := rfl
@[simp] theorem State.setCursor_voices (s : State) (p d : Nat) : (s.setCursor p d).voices = s.voices := rfl
@[simp] theorem State.setCursor_accL (s : State) (p d : Nat) : (s.setCursor p d).accL = s.accL := rfl
@[simp] theorem State.setCursor_accR (s : State) (p d : Nat) : (s.setCursor p d).accR = s.accR := rfl
@[simp] theorem State.setCursor_playing (s : State) (p d : Nat) : (s.setCursor p d).playing = p := rfl
@[simp] theorem State.setCursor_filling (s : State) (p d : Nat) : (s.setCursor p d).filling = s.filling := rfl
@[simp] theorem State.setCursor_ring (s : State) (p d : Nat) : (s.setCursor p d).ring = s.ring := rfl
@[simp] theorem State.setCursor_fillState (s : State) (p d : Nat) : (s.setCursor p d).fillState = s.fillState := rfl
@[simp] theorem State.setCursor_frameIdx (s : State) (p d : Nat) : (s.setCursor p d).frameIdx = s.frameIdx := rfl
@[simp] theorem State.setCursor_devActive (s : State) (p d : Nat) : (s.setCursor p d).devActive = s.devActive := rfl
@[simp] theorem State.setCursor_devRd (s : State) (p d : Nat) : (s.setCursor p d).devRd = d := rfl
@[simp] theorem State.setCursor_prefilled (s : State) (p d : Nat) : (s.setCursor p d).prefilled = s.prefilled := rfl
@[simp] theorem State.setCursor_resets (s : State) (p d : Nat) : (s.setCursor p d).resets = s.resets := rfl
@[simp] theorem State.setCursor_tmp (s : State) (p d : Nat) : (s.setCursor p d).tmp = s.tmp := rfl
@[simp] theorem State.setCursor_cmds (s : State) (p d : Nat) : (s.setCursor p d).cmds = s.cmds := rfl
@[simp] theorem State.setCursor_turn (s : State) (p d : Nat) : (s.setCursor p d).turn = s.turn := rfl
@[simp] theorem State.setCursor_gaps (s : State) (p d : Nat) : (s.setCursor p d).gaps = s.gaps := rfl
@[simp] theorem State.setCursor_out (s : State) (p d : Nat) : (s.setCursor p d).out = s.out := rfl

@[simp] theorem State.setDevActive_cfg (s : State) (x : Bool) : (s.setDevActive x).cfg = s.cfg := rfl
@[simp] theorem State.setDevActive_timing (s : State) (x : Bool) : (s.setDevActive x).timing = s.timing := rfl
@[simp] theorem State.setDevActive_voices (s : State) (x : Bool) : (s.setDevActive x).voices = s.voices := rfl
@[simp] theorem State.setDevActive_accL (s : State) (x : Bool) : (s.setDevActive x).accL = s.accL := rfl
@[simp] theorem State.setDevActive_accR (s : State) (x : Bool) : (s.setDevActive x).accR = s.accR := rfl
@[simp] theorem State.setDevActive_playing (s : State) (x : Bool) : (s.setDevActive x).playing = s.playing := rfl
@[simp] theorem State.setDevActive_filling (s : State) (x : Bool) : (s.setDevActive x).filling = s.filling := rfl
@[simp] theorem State.setDevActive_ring (s : State) (x : Bool) : (s.setDevActive x).ring = s.ring := rfl
@[simp] theorem State.setDevActive_fillState (s : State) (x : Bool) : (s.setDevActive x).fillState = s.fillState := rfl
@[simp] theorem State.setDevActive_frameIdx (s : State) (x : Bool) : (s.setDevActive x).frameIdx = s.frameIdx := rfl
@[simp] theorem State.setDevActive_devActive (s : State) (x : Bool) : (s.setDevActive x).devActive = x := rfl
@[simp] theorem State.setDevActive_devRd (s : State) (x : Bool) : (s.setDevActive x).devRd = s.devRd := rfl
@[simp] theorem State.setDevActive_prefilled (s : State) (x : Bool) : (s.setDevActive x).prefilled = s.prefilled := rfl
@[simp] theorem State.setDevActive_resets (s : State) (x : Bool) : (s.setDevActive x).resets = s.resets := rfl
@[simp] theorem State.setDevActive_tmp (s : State) (x : Bool) : (s.setDevActive x).tmp = s.tmp := rfl
@[simp] theorem State.setDevActive_cmds (s : State) (x : Bool) : (s.setDevActive x).cmds = s.cmds := rfl
@[simp] theorem State.setDevActive_turn (s : State) (x : Bool) : (s.setDevActive x).turn = s.turn := rfl
@[simp] theorem State.setDevActive_gaps (s : State) (x : Bool) : (s.setDevActive x).gaps = s.gaps := rfl
@[simp] theorem State.setDevActive_out (s : State) (x : Bool) : (s.setDevActive x).out = s.out := rfl

@[simp] theorem State.setPrefilled_cfg (s : State) (x : Bool) : (s.setPrefilled x).cfg = s.cfg := rfl
@[simp] theorem State.setPrefilled_timing (s : State) (x : Bool) : (s.setPrefilled x).timing = s.timing := rfl
@[simp] theorem State.setPrefilled_voices (s : State) (x : Bool) : (s.setPrefilled x).voices = s.voices := rfl
@[simp] theorem State.setPrefilled_accL (s : State) (x : Bool) : (s.setPrefilled x).accL = s.accL := rfl
@[simp] theorem State.setPrefilled_accR (s : State) (x : Bool) : (s.setPrefilled x).accR = s.accR := rfl
@[simp] theorem State.setPrefilled_playing (s : State) (x : Bool) : (s.setPrefilled x).playing = s.playing := rfl
@[simp] theorem State.setPrefilled_filling (s : State) (x : Bool) : (s.setPrefilled x).filling = s.filling := rfl
@[simp] theorem State.setPrefilled_ring (s : State) (x : Bool) : (s.setPrefilled x).ring = s.ring := rfl
@[simp] theorem State.setPrefilled_fillState (s : State) (x : Bool) : (s.setPrefilled x).fillState = s.fillState := rfl
@[simp] theorem State.setPrefilled_frameIdx (s : State) (x : Bool) : (s.setPrefilled x).frameIdx = s.frameIdx := rfl
@[simp] theorem State.setPrefilled_devActive (s : State) (x : Bool) : (s.setPrefilled x).devActive = s.devActive := rfl
@[simp] theorem State.setPrefilled_devRd (s : State) (x : Bool) : (s.setPrefilled x).devRd = s.devRd := rfl
@[simp] theorem State.setPrefilled_prefilled (s : State) (x : Bool) : (s.setPrefilled x).prefilled = x := rfl
@[simp] theorem State.setPrefilled_resets (s : State) (x : Bool) : (s.setPrefilled x).resets = s.resets := rfl
@[simp] theorem State.setPrefilled_tmp (s : State) (x : Bool) : (s.setPrefilled x).tmp = s.tmp := rfl
@[simp] theorem State.setPrefilled_cmds (s : State) (x : Bool) : (s.setPrefilled x).cmds = s.cmds := rfl
@[simp] theorem State.setPrefilled_turn (s : State) (x : Bool) : (s.setPrefilled x).turn = s.turn := rfl
@[simp] theorem State.setPrefilled_gaps (s : State) (x : Bool) : (s.setPrefilled x).gaps = s.gaps := rfl
@[simp] theorem State.setPrefilled_out (s : State) (x : Bool) : (s.setPrefilled x).out = s.out := rfl

@[simp] theorem State.setTmp_cfg (s : State) (x : Transient) : (s.setTmp x).cfg = s.cfg := rfl
@[simp] theorem State.setTmp_timing (s : State) (x : Transient) : (s.setTmp x).timing = s.timing := rfl
@[simp] theorem State.setTmp_voices (s : State) (x : Transient) : (s.setTmp x).voices = s.voices := rfl
@[simp] theorem State.setTmp_accL (s : State) (x : Transient) : (s.setTmp x).accL = s.accL := rfl
@[simp] theorem State.setTmp_accR (s : State) (x : Transient) : (s.setTmp x).accR = s.accR := rfl
@[simp] theorem State.setTmp_playing (s : State) (x : Transient) : (s.setTmp x).playing = s.playing := rfl
@[simp] theorem State.setTmp_filling (s : State) (x : Transient) : (s.setTmp x).filling = s.filling := rfl
@[simp] theorem State.setTmp_ring (s : State) (x : Transient) : (s.setTmp x).ring = s.ring := rfl
@[simp] theorem State.setTmp_fillState (s : State) (x : Transient) : (s.setTmp x).fillState = s.fillState := rfl
@[simp] theorem State.setTmp_frameIdx (s : State) (x : Transient) : (s.setTmp x).frameIdx = s.frameIdx := rfl
@[simp] theorem State.setTmp_devActive (s : State) (x : Transient) : (s.setTmp x).devActive = s.devActive := rfl
@[simp] theorem State.setTmp_devRd (s : State) (x : Transient) : (s.setTmp x).devRd = s.devRd := rfl
@[simp] theorem State.setTmp_prefilled (s : State) (x : Transient) : (s.setTmp x).prefilled = s.prefilled := rfl
@[simp] theorem State.setTmp_resets (s : State) (x : Transient) : (s.setTmp x).resets = s.resets := rfl
@[simp] theorem State.setTmp_tmp (s : State) (x : Transient) : (s.setTmp x).tmp = x := rfl
@[simp] theorem State.setTmp_cmds (s : State) (x : Transient) : (s.setTmp x).cmds = s.cmds := rfl
@[simp] theorem State.setTmp_turn (s : State) (x : Transient) : (s.setTmp x).turn = s.turn := rfl
@[simp] theorem State.setTmp_gaps (s : State) (x : Transient) : (s.setTmp x).gaps = s.gaps := rfl
@[simp] theorem State.setTmp_out (s : State) (x : Transient) : (s.setTmp x).out = s.out := rfl

@[simp] theorem State.emit_cfg (s : State) (w : FrameWord) : (s.emit w).cfg = s.cfg := rfl
@[simp] theorem State.emit_timing (s : State) (w : FrameWord) : (s.emit w).timing = s.timing := rfl
@[simp] theorem State.emit_voices (s : State) (w : FrameWord) : (s.emit w).voices = s.voices := rfl
@[simp] theorem State.emit_accL (s : State) (w : FrameWord) : (s.emit w).accL = s.accL := rfl
@[simp] theorem State.emit_accR (s : State) (w : FrameWord) : (s.emit w).accR = s.accR := rfl
@[simp] theorem State.emit_playing (s : State) (w : FrameWord) : (s.emit w).playing = s.playing := rfl
@[simp] theorem State.emit_filling (s : State) (w : FrameWord) : (s.emit w).filling = s.filling := rfl
@[simp] theorem State.emit_ring (s : State) (w : FrameWord) : (s.emit w).ring = s.ring := rfl
@[simp] theorem State.emit_fillState (s : State) (w : FrameWord) : (s.emit w).fillState = s.fillState := rfl
@[simp] theorem State.emit_frameIdx (s : State) (w : FrameWord) : (s.emit w).frameIdx = s.frameIdx := rfl
@[simp] theorem State.emit_devActive (s : State) (w : FrameWord) : (s.emit w).devActive = s.devActive := rfl
@[simp] theorem State.emit_devRd (s : State) (w : FrameWord) : (s.emit w).devRd = s.devRd := rfl
@[simp] theorem State.emit_prefilled (s : State) (w : FrameWord) : (s.emit w).prefilled = s.prefilled := rfl
@[simp] theorem State.emit_resets (s : State) (w : FrameWord) : (s.emit w).resets = s.resets := rfl
@[simp] theorem State.emit_tmp (s : State) (w : FrameWord) : (s.emit w).tmp = s.tmp := rfl
@[simp] theorem State.emit_cmds (s : State) (w : FrameWord) : (s.emit w).cmds = s.cmds := rfl
@[simp] theorem State.emit_turn (s : State) (w : FrameWord) : (s.emit w).turn = s.turn := rfl
@[simp] theorem State.emit_gaps (s : State) (w : FrameWord) : (s.emit w).gaps = s.gaps := rfl
@[simp] theorem State.emit_out (s : State) (w : FrameWord) : (s.emit w).out = s.out ++ [w] := rfl

@[simp] theorem State.setGaps_cfg (s : State) (x : List Nat) : (s.setGaps x).cfg = s.cfg := rfl
@[simp] theorem State.setGaps_timing (s : State) (x : List Nat) : (s.setGaps x).timing = s.timing := rfl
@[simp] theorem State.setGaps_voices (s : State) (x : List Nat) : (s.setGaps x).voices = s.voices := rfl
@[simp] theorem State.setGaps_accL (s : State) (x : List Nat) : (s.setGaps x).accL = s.accL := rfl
@[simp] theorem State.setGaps_accR (s : State) (x : List Nat) : (s.setGaps x).accR = s.accR := rfl
@[simp] theorem State.setGaps_playing (s : State) (x : List Nat) : (s.setGaps x).playing = s.playing := rfl
@[simp] theorem State.setGaps_filling (s : State) (x : List Nat) : (s.setGaps x).filling = s.filling := rfl
@[simp] theorem State.setGaps_ring (s : State) (x : List Nat) : (s.setGaps x).ring = s.ring := rfl
@[simp] theorem State.setGaps_fillState (s : State) (x : List Nat) : (s.setGaps x).fillState = s.fillState := rfl
@[simp] theorem State.setGaps_frameIdx (s : State) (x : List Nat) : (s.setGaps x).frameIdx = s.frameIdx := rfl
@[simp] theorem State.setGaps_devActive (s : State) (x : List Nat) : (s.setGaps x).devActive = s.devActive := rfl
@[simp] theorem State.setGaps_devRd (s : State) (x : List Nat) : (s.setGaps x).devRd = s.devRd := rfl
@[simp] theorem State.setGaps_prefilled (s : State) (x : List Nat) : (s.setGaps x).prefilled = s.prefilled := rfl
@[simp] theorem State.setGaps_resets (s : State) (x : List Nat) : (s.setGaps x).resets = s.resets := rfl
@[simp] theorem State.setGaps_tmp (s : State) (x : List Nat) : (s.setGaps x).tmp = s.tmp := rfl
@[simp] theorem State.setGaps_cmds (s : State) (x : List Nat) : (s.setGaps x).cmds = s.cmds := rfl
@[simp] theorem State.setGaps_turn (s : State) (x : List Nat) : (s.setGaps x).turn = s.turn := rfl
@[simp] theorem State.setGaps_gaps (s : State) (x : List Nat) : (s.setGaps x).gaps = x := rfl
@[simp] theorem State.setGaps_out (s : State) (x : List Nat) : (s.setGaps x).out = s.out := rfl

@[simp] theorem State.setSchedule_cfg (s : State) (q : List Cmd) (n : Nat) : (s.setSchedule q n).cfg = s.cfg := rfl
@[simp] theorem State.setSchedule_timing (s : State) (q : List Cmd) (n : Nat) : (s.setSchedule q n).timing = s.timing := rfl
@[simp] theorem State.setSchedule_voices (s : State) (q : List Cmd) (n : Nat) : (s.setSchedule q n).voices = s.voices := rfl
@[simp] theorem State.setSchedule_accL (s : State) (q : List Cmd) (n : Nat) : (s.setSchedule q n).accL = s.accL := rfl
@[simp] theorem State.setSchedule_accR (s : State) (q : List Cmd) (n : Nat) : (s.setSchedule q n).accR = s.accR := rfl
@[simp] theorem State.setSchedule_playing (s : State) (q : List Cmd) (n : Nat) : (s.setSchedule q n).playing = s.playing := rfl
@[simp] theorem State.setSchedule_filling (s : State) (q : List Cmd) (n : Nat) : (s.setSchedule q n).filling = s.filling := rfl
@[simp] theorem State.setSchedule_ring (s : State) (q : List Cmd) (n : Nat) : (s.setSchedule q n).ring = s.ring := rfl
@[simp] theorem State.setSchedule_fillState (s : State) (q : List Cmd) (n : Nat) : (s.setSchedule q n).fillState = s.fillState := rfl
@[simp] theorem State.setSchedule_frameIdx (s : State) (q : List Cmd) (n : Nat) : (s.setSchedule q n).frameIdx = s.frameIdx := rfl
@[simp] theorem State.setSchedule_devActive (s : State) (q : List Cmd) (n : Nat) : (s.setSchedule q n).devActive = s.devActive := rfl
@[simp] theorem State.setSchedule_devRd (s : State) (q : List Cmd) (n : Nat) : (s.setSchedule q n).devRd = s.devRd := rfl
@[simp] theorem State.setSchedule_prefilled (s : State) (q : List Cmd) (n : Nat) : (s.setSchedule q n).prefilled = s.prefilled := rfl
@[simp] theorem State.setSchedule_resets (s : State) (q : List Cmd) (n : Nat) : (s.setSchedule q n).resets = s.resets := rfl
@[simp] theorem State.setSchedule_tmp (s : State) (q : List Cmd) (n : Nat) : (s.setSchedule q n).tmp = s.tmp := rfl
@[simp] theorem State.setSchedule_cmds (s : State) (q : List Cmd) (n : Nat) : (s.setSchedule q n).cmds = q := rfl
@[simp] theorem State.setSchedule_turn (s : State) (q : List Cmd) (n : Nat) : (s.setSchedule q n).turn = n := rfl
@[simp] theorem State.setSchedule_gaps (s : State) (q : List Cmd) (n : Nat) : (s.setSchedule q n).gaps = s.gaps := rfl
@[simp] theorem State.setSchedule_out (s : State) (q : List Cmd) (n : Nat) : (s.setSchedule q n).out = s.out := rfl

@[simp] theorem State.setVoice_cfg (s : State) (v : Nat) (x : Voice) : (s.setVoice v x).cfg = s.cfg := rfl
@[simp] theorem State.setVoice_timing (s : State) (v : Nat) (x : Voice) : (s.setVoice v x).timing = s.timing := rfl
@[simp] theorem State.setVoice_voices (s : State) (v : Nat) (x : Voice) : (s.setVoice v x).voices = s.voices.set v x := rfl
@[simp] theorem State.setVoice_accL (s : State) (v : Nat) (x : Voice) : (s.setVoice v x).accL = s.accL := rfl
@[simp] theorem State.setVoice_accR (s : State) (v : Nat) (x : Voice) : (s.setVoice v x).accR = s.accR := rfl
@[simp] theorem State.setVoice_playing (s : State) (v : Nat) (x : Voice) : (s.setVoice v x).playing = s.playing := rfl
@[simp] theorem State.setVoice_filling (s : State) (v : Nat) (x : Voice) : (s.setVoice v x).filling = s.filling := rfl
@[simp] theorem State.setVoice_ring (s : State) (v : Nat) (x : Voice) : (s.setVoice v x).ring = s.ring := rfl
@[simp] theorem State.setVoice_fillState (s : State) (v : Nat) (x : Voice) : (s.setVoice v x).fillState = s.fillState := rfl
@[simp] theorem State.setVoice_frameIdx (s : State) (v : Nat) (x : Voice) : (s.setVoice v x).frameIdx = s.frameIdx := rfl
@[simp] theorem State.setVoice_devActive (s : State) (v : Nat) (x : Voice) : (s.setVoice v x).devActive = s.devActive := rfl
@[simp] theorem State.setVoice_devRd (s : State) (v : Nat) (x : Voice) : (s.setVoice v x).devRd = s.devRd := rfl
@[simp] theorem State.setVoice_prefilled (s : State) (v : Nat) (x : Voice) : (s.setVoice v x).prefilled = s.prefilled := rfl
@[simp] theorem State.setVoice_resets (s : State) (v : Nat) (x : Voice) : (s.setVoice v x).resets = s.resets := rfl
@[simp] theorem State.setVoice_tmp (s : State) (v : Nat) (x : Voice) : (s.setVoice v x).tmp = s.tmp := rfl
@[simp] theorem State.setVoice_cmds (s : State) (v : Nat) (x : Voice) : (s.setVoice v x).cmds = s.cmds := rfl
@[simp] theorem State.setVoice_turn (s : State) (v : Nat) (x : Voice) : (s.setVoice v x).turn = s.turn := rfl
@[simp] theorem State.setVoice_gaps (s : State) (v : Nat) (x : Voice) : (s.setVoice v x).gaps = s.gaps := rfl
@[simp] theorem State.setVoice_out (s : State) (v : Nat) (x : Voice) : (s.setVoice v x).out = s.out := rfl

@[simp] theorem tickQuery_cfg (s : State) : (tickQuery s).cfg = s.cfg := rfl
@[simp] theorem tickQuery_timing (s : State) : (tickQuery s).timing = s.timing := rfl
@[simp] theorem tickQuery_voices (s : State) : (tickQuery s).voices = s.voices := rfl
@[simp] theorem tickQuery_accL (s : State) : (tickQuery s).accL = s.accL := rfl
@[simp] theorem tickQuery_accR (s : State) : (tickQuery s).accR = s.accR := rfl
@[simp] theorem tickQuery_playing (s : State) : (tickQuery s).playing = s.playing := rfl
@[simp] theorem tickQuery_filling (s : State) : (tickQuery s).filling = s.filling := rfl
@[simp] theorem tickQuery_ring (s : State) : (tickQuery s).ring = s.ring := rfl
@[simp] theorem tickQuery_fillState (s : State) : (tickQuery s).fillState = s.fillState := rfl
@[simp] theorem tickQuery_frameIdx (s : State) : (tickQuery s).frameIdx = s.frameIdx := rfl
@[simp] theorem tickQuery_devActive (s : State) : (tickQuery s).devActive = s.devActive := rfl
@[simp] theorem tickQuery_devRd (s : State) : (tickQuery s).devRd = s.devRd := rfl
@[simp] theorem tickQuery_prefilled (s : State) : (tickQuery s).prefilled = s.prefilled := rfl
@[simp] theorem tickQuery_resets (s : State) : (tickQuery s).resets = s.resets := rfl
@[simp] theorem tickQuery_tmp (s : State) : (tickQuery s).tmp = { s.tmp with tick := tickStart s } := rfl
@[simp] theorem tickQuery_cmds (s : State) : (tickQuery s).cmds = s.cmds := rfl
@[simp] theorem tickQuery_turn (s : State) : (tickQuery s).turn = s.turn := rfl
@[simp] theorem tickQuery_out (s : State) : (tickQuery s).out = s.out := rfl

@[simp] theorem advance_cfg (s : State) : (advance s).cfg = s.cfg := rfl
@[simp] theorem advance_timing (s : State) : (advance s).timing = s.timing.advance s.cfg := rfl
@[simp] theorem advance_voices (s : State) : (advance s).voices = s.voices := rfl
@[simp] theorem advance_accL (s : State) : (advance s).accL = s.accL := rfl
@[simp] theorem advance_accR (s : State) : (advance s).accR = s.accR := rfl
@[simp] theorem advance_playing (s : State) : (advance s).playing = s.playing := rfl
@[simp] theorem advance_filling (s : State) : (advance s).filling = s.filling := rfl
@[simp] theorem advance_ring (s : State) : (advance s).ring = s.ring := rfl
@[simp] theorem advance_fillState (s : State) : (advance s).fillState = s.fillState := rfl
@[simp] theorem advance_frameIdx (s : State) : (advance s).frameIdx = s.frameIdx := rfl
@[simp] theorem advance_devActive (s : State) : (advance s).devActive = s.devActive := rfl
@[simp] theorem advance_devRd (s : State) : (advance s).devRd = s.devRd := rfl
@[simp] theorem advance_prefilled (s : State) : (advance s).prefilled = s.prefilled := rfl
@[simp] theorem advance_resets (s : State) : (advance s).resets = s.resets := rfl
@[simp] theorem advance_tmp (s : State) : (advance s).tmp = s.tmp := rfl
@[simp] theorem advance_cmds (s : State) : (advance s).cmds = s.cmds := rfl
@[simp] theorem advance_turn (s : State) : (advance s).turn = s.turn := rfl
@[simp] theorem advance_out (s : State) : (advance s).out = s.out := rfl

@[simp] theorem accClear_cfg (s : State) : (accClear s).cfg = s.cfg := rfl
@[simp] theorem accClear_timing (s : State) : (accClear s).timing = s.timing := rfl
@[simp] theorem accClear_voices (s : State) : (accClear s).voices = s.voices := rfl
@[simp] theorem accClear_accL (s : State) : (accClear s).accL = 0 := rfl
@[simp] theorem accClear_accR (s : State) : (accClear s).accR = 0 := rfl
@[simp] theorem accClear_playing (s : State) : (accClear s).playing = s.playing := rfl
@[simp] theorem accClear_filling (s : State) : (accClear s).filling = s.filling := rfl
@[simp] theorem accClear_ring (s : State) : (accClear s).ring = s.ring := rfl
@[simp] theorem accClear_fillState (s : State) : (accClear s).fillState = s.fillState := rfl
@[simp] theorem accClear_frameIdx (s : State) : (accClear s).frameIdx = s.frameIdx := rfl
@[simp] theorem accClear_devActive (s : State) : (accClear s).devActive = s.devActive := rfl
@[simp] theorem accClear_devRd (s : State) : (accClear s).devRd = s.devRd := rfl
@[simp] theorem accClear_prefilled (s : State) : (accClear s).prefilled = s.prefilled := rfl
@[simp] theorem accClear_resets (s : State) : (accClear s).resets = s.resets := rfl
@[simp] theorem accClear_tmp (s : State) : (accClear s).tmp = s.tmp := rfl
@[simp] theorem accClear_cmds (s : State) : (accClear s).cmds = s.cmds := rfl
@[simp] theorem accClear_turn (s : State) : (accClear s).turn = s.turn := rfl
@[simp] theorem accClear_out (s : State) : (accClear s).out = s.out := rfl

@[simp] theorem rearmDevice_cfg (s : State) : (rearmDevice s).cfg = s.cfg := rfl
@[simp] theorem rearmDevice_timing (s : State) : (rearmDevice s).timing = s.timing := rfl
@[simp] theorem rearmDevice_voices (s : State) : (rearmDevice s).voices = s.voices := rfl
@[simp] theorem rearmDevice_accL (s : State) : (rearmDevice s).accL = s.accL := rfl
@[simp] theorem rearmDevice_accR (s : State) : (rearmDevice s).accR = s.accR := rfl
@[simp] theorem rearmDevice_playing (s : State) : (rearmDevice s).playing = nextSlot s.cfg.nSlots s.playing := rfl
@[simp] theorem rearmDevice_filling (s : State) : (rearmDevice s).filling = s.filling := rfl
@[simp] theorem rearmDevice_ring (s : State) : (rearmDevice s).ring = s.ring := rfl
@[simp] theorem rearmDevice_fillState (s : State) : (rearmDevice s).fillState = s.fillState := rfl
@[simp] theorem rearmDevice_frameIdx (s : State) : (rearmDevice s).frameIdx = s.frameIdx := rfl
@[simp] theorem rearmDevice_devActive (s : State) : (rearmDevice s).devActive = s.devActive := rfl
@[simp] theorem rearmDevice_devRd (s : State) : (rearmDevice s).devRd = 0 := rfl
@[simp] theorem rearmDevice_prefilled (s : State) : (rearmDevice s).prefilled = s.prefilled := rfl
@[simp] theorem rearmDevice_resets (s : State) : (rearmDevice s).resets = s.resets := rfl
@[simp] theorem rearmDevice_tmp (s : State) : (rearmDevice s).tmp = s.tmp := rfl
@[simp] theorem rearmDevice_cmds (s : State) : (rearmDevice s).cmds = s.cmds := rfl
@[simp] theorem rearmDevice_turn (s : State) : (rearmDevice s).turn = s.turn := rfl
@[simp] theorem rearmDevice_out (s : State) : (rearmDevice s).out = s.out := rfl

@[simp] theorem accAdd_cfg (s : State) : (accAdd s).cfg = s.cfg := rfl
@[simp] theorem accAdd_timing (s : State) : (accAdd s).timing = s.timing := rfl
@[simp] theorem accAdd_voices (s : State) : (accAdd s).voices = s.voices := rfl
@[simp] theorem accAdd_playing (s : State) : (accAdd s).playing = s.playing := rfl
@[simp] theorem accAdd_filling (s : State) : (accAdd s).filling = s.filling := rfl
@[simp] theorem accAdd_ring (s : State) : (accAdd s).ring = s.ring := rfl
@[simp] theorem accAdd_fillState (s : State) : (accAdd s).fillState = s.fillState := rfl
@[simp] theorem accAdd_frameIdx (s : State) : (accAdd s).frameIdx = s.frameIdx := rfl
@[simp] theorem accAdd_devActive (s : State) : (accAdd s).devActive = s.devActive := rfl
@[simp] theorem accAdd_devRd (s : State) : (accAdd s).devRd = s.devRd := rfl
@[simp] theorem accAdd_prefilled (s : State) : (accAdd s).prefilled = s.prefilled := rfl
@[simp] theorem accAdd_resets (s : State) : (accAdd s).resets = s.resets := rfl
@[simp] theorem accAdd_tmp (s : State) : (accAdd s).tmp = s.tmp := rfl
@[simp] theorem accAdd_cmds (s : State) : (accAdd s).cmds = s.cmds := rfl
@[simp] theorem accAdd_turn (s : State) : (accAdd s).turn = s.turn := rfl
@[simp] theorem accAdd_out (s : State) : (accAdd s).out = s.out := rfl

@[simp] theorem packFrame_cfg (s : State) : (packFrame s).cfg = s.cfg := rfl
@[simp] theorem packFrame_timing (s : State) : (packFrame s).timing = s.timing := rfl
@[simp] theorem packFrame_voices (s : State) : (packFrame s).voices = s.voices := rfl
@[simp] theorem packFrame_accL (s : State) : (packFrame s).accL = s.accL := rfl
@[simp] theorem packFrame_accR (s : State) : (packFrame s).accR = s.accR := rfl
@[simp] theorem packFrame_playing (s : State) : (packFrame s).playing = s.playing := rfl
@[simp] theorem packFrame_filling (s : State) : (packFrame s).filling = s.filling := rfl
@[simp] theorem packFrame_ring (s : State) : (packFrame s).ring = s.ring := rfl
@[simp] theorem packFrame_fillState (s : State) : (packFrame s).fillState = s.fillState := rfl
@[simp] theorem packFrame_frameIdx (s : State) : (packFrame s).frameIdx = s.frameIdx := rfl
@[simp] theorem packFrame_devActive (s : State) : (packFrame s).devActive = s.devActive := rfl
@[simp] theorem packFrame_devRd (s : State) : (packFrame s).devRd = s.devRd := rfl
@[simp] theorem packFrame_prefilled (s : State) : (packFrame s).prefilled = s.prefilled := rfl
@[simp] theorem packFrame_resets (s : State) : (packFrame s).resets = s.resets := rfl
@[simp] theorem packFrame_cmds (s : State) : (packFrame s).cmds = s.cmds := rfl
@[simp] theorem packFrame_turn (s : State) : (packFrame s).turn = s.turn := rfl
@[simp] theorem packFrame_out (s : State) : (packFrame s).out = s.out := rfl

end Sys2Proof.Machine
end

