-- ==== Sys2Proof/Laws/Ops.lean ====
section
/-! SUPPORT. The laws of sequencing, of RING as a memory, and of the accesses to both: each says once what its operation
can answer. -/

namespace Sys2Proof.Machine

/-! ### Sequencing -/

@[simp] theorem andThen_next (s : State) (k : State → Result) : andThen (.next s) k = k s := rfl
@[simp] theorem andThen_fault (e : Fault) (k : State → Result) : andThen (.fault e) k = .fault e := rfl
@[simp] theorem andThen_refused (e : Refusal) (k : State → Result) : andThen (.refused e) k = .refused e := rfl

theorem andThen_eq_next {r : Result} {k : State → Result} {t : State} :
    andThen r k = .next t ↔ ∃ s, r = .next s ∧ k s = .next t := by
  cases r <;> simp

theorem andThen_assoc (r : Result) (k l : State → Result) :
    andThen (andThen r k) l = andThen r fun s => andThen (k s) l := by
  cases r <;> rfl

@[simp] theorem forEach_nil (body : Nat → State → Result) (s : State) : forEach [] body s = .next s := rfl
@[simp] theorem forEach_cons (x : Nat) (xs : List Nat) (body : Nat → State → Result) (s : State) :
    forEach (x :: xs) body s = andThen (body x s) (forEach xs body) := rfl

theorem forEach_append (xs ys : List Nat) (body : Nat → State → Result) (s : State) :
    forEach (xs ++ ys) body s = andThen (forEach xs body s) (forEach ys body) := by
  induction xs generalizing s with
  | nil => rfl
  | cons x xs ih =>
    simp only [List.cons_append, forEach_cons, andThen_assoc]
    cases body x s <;> simp [ih]

/-- A loop keeps what its body keeps. -/
theorem forEach_keeps {P : State → Prop} {body : Nat → State → Result}
    (hb : ∀ x s t, P s → body x s = .next t → P t) :
    ∀ (xs : List Nat) (s t : State), P s → forEach xs body s = .next t → P t
  | [], s, t, hs, h => by cases h; exact hs
  | x :: xs, s, t, hs, h => by
    obtain ⟨u, hu, ht⟩ := andThen_eq_next.mp h
    exact forEach_keeps hb xs u t (hb x s u hs hu) ht

/-- A loop over `range n` reaches the n-th state of a family its body walks through. -/
theorem forEach_range {P : Nat → State → Prop} {body : Nat → State → Result} {n : Nat}
    (hb : ∀ k s, k < n → P k s → ∃ t, body k s = .next t ∧ P (k + 1) t) {s : State} (h0 : P 0 s) :
    ∃ t, forEach (List.range n) body s = .next t ∧ P n t := by
  induction n with
  | zero => exact ⟨s, rfl, h0⟩
  | succ n ih =>
    obtain ⟨u, hu, hPu⟩ := ih fun k s hk => hb k s (by omega)
    obtain ⟨t, ht, hPt⟩ := hb n u (by omega) hPu
    refine ⟨t, ?_, hPt⟩
    simp [List.range_succ, forEach_append, hu, ht]

theorem guarded_of_enabled {step : AgentStep} {s : State} (h : enabled s step = true) (body : State → Result) :
    guarded step s body = body s := by simp [guarded, h]

theorem guarded_of_disabled {step : AgentStep} {s : State} (h : enabled s step = false) (body : State → Result) :
    guarded step s body = .fault (.notEnabled step) := by simp [guarded, h]

theorem guarded_eq_next {step : AgentStep} {s t : State} {body : State → Result} :
    guarded step s body = .next t ↔ enabled s step = true ∧ body s = .next t := by
  unfold guarded; split <;> simp_all

theorem withVoice_of_some {v : Nat} {s : State} {x : Voice} (h : s.voices[v]? = some x) (k : Voice → Result) :
    withVoice v s k = k x := by simp [withVoice, h]

theorem withVoice_of_none {v : Nat} {s : State} (h : s.voices[v]? = none) (k : Voice → Result) :
    withVoice v s k = .fault (.noSuchVoice v) := by simp [withVoice, h]

theorem withVoice_eq_next {v : Nat} {s t : State} {k : Voice → Result} :
    withVoice v s k = .next t ↔ ∃ x, s.voices[v]? = some x ∧ k x = .next t := by
  unfold withVoice; split <;> simp_all

/-! ### RING -/

@[simp] theorem Ring.read_nil (a : Nat) : Ring.read [] a = none := rfl

/-- What is written is read back. -/
theorem Ring.read_write_same (r : Ring) (a : Nat) (w : FrameWord) : (Ring.write r a w).read a = some w := by
  induction r with
  | nil => simp [Ring.write, Ring.read]
  | cons p r ih =>
    obtain ⟨b, x⟩ := p
    unfold Ring.write
    split
    · simp [Ring.read]
    · split
      · simp [Ring.read]
      · have hba : b < a := by omega
        simp [Ring.read, ih, hba, Nat.ne_of_lt hba]

/-- A write leaves every other word alone. -/
theorem Ring.read_write_other (r : Ring) {a b : Nat} (w : FrameWord) (h : b ≠ a) :
    (Ring.write r a w).read b = Ring.read r b := by
  induction r with
  | nil =>
    simp only [Ring.write, Ring.read, if_neg (Ne.symm h)]
    split <;> rfl
  | cons p r ih =>
    obtain ⟨c, x⟩ := p
    unfold Ring.write
    split
    · next hac =>
      by_cases hab : a < b
      · simp [Ring.read, Ne.symm h, hab]
      · have : ¬ c = b := by omega
        have : ¬ c < b := by omega
        simp [Ring.read, Ne.symm h, *]
    · split
      · next hac =>
        subst hac
        simp only [Ring.read, if_neg (Ne.symm h)]
      · simp only [Ring.read, ih]

/-- A write lists the word it writes and words that were listed. -/
theorem Ring.mem_write {r : Ring} {a : Nat} {w : FrameWord} {p : Nat × FrameWord}
    (h : p ∈ Ring.write r a w) : p = (a, w) ∨ p ∈ r := by
  induction r with
  | nil => simpa [Ring.write] using h
  | cons q r ih =>
    obtain ⟨b, x⟩ := q
    unfold Ring.write at h
    split at h
    · simpa using h
    · split at h
      · rcases List.mem_cons.mp h with h | h
        · exact .inl h
        · exact .inr (List.mem_cons_of_mem _ h)
      · rcases List.mem_cons.mp h with h | h
        · exact .inr (h ▸ List.mem_cons_self)
        · rcases ih h with h | h
          · exact .inl h
          · exact .inr (List.mem_cons_of_mem _ h)

/-- Every operation on RING keeps its canonical form: a write does. -/
theorem Ring.wf_write {r : Ring} (h : r.wf) (a : Nat) (w : FrameWord) : (Ring.write r a w).wf := by
  induction r with
  | nil => simp [Ring.write, Ring.wf]
  | cons q r ih =>
    obtain ⟨b, x⟩ := q
    have hq := List.pairwise_cons.mp h
    unfold Ring.write
    split
    · next hab =>
      refine List.pairwise_cons.mpr ⟨fun p hp => ?_, h⟩
      rcases List.mem_cons.mp hp with hp | hp
      · subst hp; exact hab
      · exact Nat.lt_trans hab (hq.1 p hp)
    · split
      · next hab => subst hab; exact List.pairwise_cons.mpr ⟨hq.1, hq.2⟩
      · refine List.pairwise_cons.mpr ⟨fun p hp => ?_, ih hq.2⟩
        rcases Ring.mem_write hp with hp | hp
        · subst hp; simp only; omega
        · exact hq.1 p hp

@[simp] theorem Ring.wf_nil : Ring.wf [] := List.Pairwise.nil

theorem storeFrame_of_inRange {s : State} {slot frame : Nat} (h : ringInRange s.cfg slot frame = true)
    (w : FrameWord) :
    storeFrame slot frame w s = .next (s.setRing (s.ring.write (ringIndex s.cfg slot frame) w)) := by
  simp [storeFrame, h]

theorem storeFrame_eq_next {s t : State} {slot frame : Nat} {w : FrameWord} :
    storeFrame slot frame w s = .next t ↔
      ringInRange s.cfg slot frame = true ∧ t = s.setRing (s.ring.write (ringIndex s.cfg slot frame) w) := by
  unfold storeFrame; split
  · simp only [Host.Outcome.next.injEq, *, true_and]; exact eq_comm
  · simp_all

theorem loadFrame_eq_next {s t : State} {slot frame : Nat} {k : FrameWord → Result} :
    loadFrame slot frame s k = .next t ↔
      ringInRange s.cfg slot frame = true ∧ k (ringWord s (ringIndex s.cfg slot frame)) = .next t := by
  unfold loadFrame; split <;> simp_all

theorem ringIndex_lt {c : Cfg} {slot frame : Nat} (h : ringInRange c slot frame = true) :
    ringIndex c slot frame < c.nSlots * c.bufferSize := by
  simp only [ringInRange, Bool.and_eq_true, decide_eq_true_eq] at h
  have : (slot + 1) * c.bufferSize ≤ c.nSlots * c.bufferSize := Nat.mul_le_mul_right _ h.1
  rw [Nat.add_mul, Nat.one_mul] at this
  unfold ringIndex
  omega

/-- Two words of RING have two element indices. -/
theorem ringIndex_inj {c : Cfg} {s1 f1 s2 f2 : Nat} (h1 : f1 < c.bufferSize) (h2 : f2 < c.bufferSize)
    (h : ringIndex c s1 f1 = ringIndex c s2 f2) : s1 = s2 ∧ f1 = f2 := by
  unfold ringIndex at h
  have hB : 0 < c.bufferSize := by omega
  have e1 : (s1 * c.bufferSize + f1) / c.bufferSize = s1 := by
    rw [Nat.mul_comm, Nat.mul_add_div hB, Nat.div_eq_of_lt h1, Nat.add_zero]
  have e2 : (s2 * c.bufferSize + f2) / c.bufferSize = s2 := by
    rw [Nat.mul_comm, Nat.mul_add_div hB, Nat.div_eq_of_lt h2, Nat.add_zero]
  have hs : s1 = s2 := by rw [← e1, ← e2, h]
  subst hs
  exact ⟨rfl, by omega⟩

end Sys2Proof.Machine
end

