-- ==== Sys2Proof/Laws/Frame.lean ====
section
/-! SUPPORT. What the operations of a frame do: a symbol, the scan, a voice's turn in the mix, the whole frame. -/

namespace Sys2Proof.Machine

open Sys2Proof.Safety

/-! ### What a frame may touch -/

/-- t differs from s at most in the Voice Bank, the accumulators and the transients. -/
def SameButMix (s t : State) : Prop :=
  t = { s with voices := t.voices, accL := t.accL, accR := t.accR, tmp := t.tmp }

theorem SameButMix.refl (s : State) : SameButMix s s := rfl

theorem SameButMix.trans {s t u : State} (h : SameButMix s t) (g : SameButMix t u) : SameButMix s u := by
  unfold SameButMix at *
  rw [g, h]

theorem sameButMix_setVoices (s : State) (x : List Voice) : SameButMix s (s.setVoices x) := rfl
theorem sameButMix_setVoice (s : State) (v : Nat) (x : Voice) : SameButMix s (s.setVoice v x) := rfl
theorem sameButMix_setTmp (s : State) (x : Transient) : SameButMix s (s.setTmp x) := rfl
theorem sameButMix_setAcc (s : State) (l r : Int) : SameButMix s (s.setAcc l r) := rfl
theorem sameButMix_tickQuery (s : State) : SameButMix s (tickQuery s) := rfl
theorem sameButMix_accClear (s : State) : SameButMix s (accClear s) := rfl
theorem sameButMix_accAdd (s : State) : SameButMix s (accAdd s) := rfl
theorem sameButMix_packFrame (s : State) : SameButMix s (packFrame s) := rfl

theorem sameButMix_forEach {body : Nat → State → Result}
    (hb : ∀ x s t, body x s = .next t → SameButMix s t) (xs : List Nat) (s t : State)
    (h : forEach xs body s = .next t) : SameButMix s t :=
  forEach_keeps (P := SameButMix s) (fun x u w hu hw => hu.trans (hb x u w hw)) xs s t (.refl s) h

theorem SameButMix.cfg {s t : State} (h : SameButMix s t) : t.cfg = s.cfg := by rw [h]
theorem SameButMix.timing {s t : State} (h : SameButMix s t) : t.timing = s.timing := by rw [h]
theorem SameButMix.ring {s t : State} (h : SameButMix s t) : t.ring = s.ring := by rw [h]
theorem SameButMix.filling {s t : State} (h : SameButMix s t) : t.filling = s.filling := by rw [h]
theorem SameButMix.frameIdx {s t : State} (h : SameButMix s t) : t.frameIdx = s.frameIdx := by rw [h]
theorem SameButMix.fillState {s t : State} (h : SameButMix s t) : t.fillState = s.fillState := by rw [h]

/-! ### Symbols -/

theorem trigger_of_voice {v level : Nat} {s : State} {x : Voice} (h : s.voices[v]? = some x) :
    trigger v level s =
      .next (s.setVoice v { x with pos := 1, emph := emphasis level s.cfg.emphStep }) :=
  withVoice_of_some h _

theorem trigger_eq_next {v level : Nat} {s t : State} : trigger v level s = .next t ↔
    ∃ x, s.voices[v]? = some x ∧
      t = s.setVoice v { x with pos := 1, emph := emphasis level s.cfg.emphStep } := by
  simp only [trigger, withVoice_eq_next, Host.Outcome.next.injEq]
  exact exists_congr fun x => and_congr_right fun _ => eq_comm

/-- Writing back the voice that is there changes nothing. -/
theorem State.setVoice_same {s : State} {v : Nat} {x : Voice} (h : s.voices[v]? = some x) :
    s.setVoice v x = s := by
  have : s.voices.set v x = s.voices := by
    apply List.ext_getElem?
    intro i
    rw [List.getElem?_set]
    split
    · next hvi =>
      subst hvi
      obtain ⟨hlt, hx⟩ := List.getElem?_eq_some_iff.mp h
      simp [hlt, hx]
    · rfl
  unfold State.setVoice State.setVoices
  rw [this]

/-- A symbol of the alphabet does what R140 says of it. -/
theorem execSymbol_of_legal {v : Nat} {code : SymCode} {s : State} {x : Voice} (hc : legalSymbol code = true)
    (h : s.voices[v]? = some x) :
    execSymbol v code s = .next (s.setVoice v (afterSymbol s.cfg code x)) := by
  unfold execSymbol afterSymbol
  split
  · rw [State.setVoice_same h]
  · next hb =>
    have : 0x31 ≤ code.toNat ∧ code.toNat ≤ 0x39 := by
      simp only [legalSymbol, Bool.or_eq_true, beq_iff_eq, Bool.and_eq_true, decide_eq_true_eq] at hc
      exact hc.resolve_left hb
    rw [if_pos this, trigger_of_voice h]
    rfl

theorem execSymbol_sameButMix {v : Nat} {code : SymCode} {s t : State} (h : execSymbol v code s = .next t) :
    SameButMix s t := by
  unfold execSymbol at h
  split at h
  · cases h; exact .refl s
  · split at h
    · obtain ⟨x, -, rfl⟩ := trigger_eq_next.mp h
      exact sameButMix_setVoice _ _ _
    · cases h

/-! ### The scan -/

theorem scanVoice_eq_next {p v : Nat} {s t : State} : scanVoice p v s = .next t ↔
    ∃ code, readPattern s.cfg p v s.timing.tickOfBar = some code ∧ execSymbol v code s = .next t := by
  unfold scanVoice; split <;> simp_all

theorem trigScan_eq_next {s t : State} : trigScan s = .next t ↔
    ∃ p, readSong s.cfg s.timing.bar = some p ∧
      forEach (List.range s.cfg.nVoices) (scanVoice p) s = .next t := by
  unfold trigScan; split <;> simp_all

theorem trigScan_sameButMix {s t : State} (h : trigScan s = .next t) : SameButMix s t := by
  obtain ⟨p, -, hf⟩ := trigScan_eq_next.mp h
  refine sameButMix_forEach (fun x u w hw => ?_) _ _ _ hf
  obtain ⟨code, -, hc⟩ := scanVoice_eq_next.mp hw
  exact execSymbol_sameButMix hc

/-- In a well-formed configuration every position of the song has a symbol for every voice, of the alphabet. -/
theorem symbol_exists {c : Cfg} (hc : c.wf = true) {t : Timing} (ht : TimingInRange c t) :
    ∃ p, readSong c t.bar = some p ∧ ∀ v < c.nVoices, ∃ code,
      readPattern c p v t.tickOfBar = some code ∧ legalSymbol code = true := by
  simp only [Cfg.wf, Bool.and_eq_true] at hc
  obtain ⟨-, -, -, hp, hs⟩ := hc
  have hb : t.bar < c.song.length := ht.1
  have hps : c.song[t.bar] < c.patterns.length := by
    exact of_decide_eq_true ((List.all_eq_true.mp hs) _ (List.getElem_mem hb))
  refine ⟨c.song[t.bar], by simp [readSong, hb], fun v hv => ?_⟩
  have hg := (List.all_eq_true.mp hp) _ (List.getElem_mem hps)
  simp only [Bool.and_eq_true, beq_iff_eq, List.all_eq_true] at hg
  have hv' : v < (c.patterns[c.song[t.bar]]).length := by rw [hg.1]; exact hv
  have hr := hg.2 _ (List.getElem_mem hv')
  have ht' : t.tickOfBar < (c.patterns[c.song[t.bar]][v]).length := by rw [hr.1]; exact ht.2.1
  refine ⟨c.patterns[c.song[t.bar]][v][t.tickOfBar], ?_, hr.2 _ (List.getElem_mem ht')⟩
  simp [readPattern, hps, hv', ht']

/-- An element of a list of which a beginning of the same length has been replaced. -/
theorem getElem?_replaced {xs ys : List Voice} {k : Nat} (hy : ys.length = k) (hk : k < xs.length) :
    (ys ++ xs.drop k)[k]? = some xs[k] := by
  rw [List.getElem?_append_right (by omega), hy, Nat.sub_self, List.getElem?_drop, Nat.add_zero,
    List.getElem?_eq_getElem hk]

/-- The scan of a tick start writes each voice as its symbol says (R151). -/
theorem trigScan_spec {s : State} (hc : s.cfg.wf = true) (ht : TimingInRange s.cfg s.timing)
    (hv : s.voices.length = s.cfg.nVoices) : trigScan s = .next (s.setVoices (scannedVoices s)) := by
  obtain ⟨p, hp, hcodes⟩ := symbol_exists hc ht
  have hsym : ∀ v, symbolAt s v = readPattern s.cfg p v s.timing.tickOfBar := by
    intro v
    have : s.cfg.song[s.timing.bar]? = some p := hp
    simp [symbolAt, readPattern, this]
  let P : Nat → State → Prop := fun n u =>
    u = s.setVoices ((scannedVoices s).take n ++ s.voices.drop n)
  have hlen : (scannedVoices s).length = s.voices.length := by simp [scannedVoices]
  obtain ⟨t, hft, hPt⟩ := forEach_range (P := P) (body := scanVoice p) (n := s.cfg.nVoices) (s := s) (by
    intro k u hk hu
    obtain ⟨code, hcode, hlegal⟩ := hcodes k hk
    have hks : k < s.voices.length := by omega
    have hx : u.voices[k]? = some (s.voices[k]) := by
      rw [hu]
      exact getElem?_replaced (by simp; omega) hks
    have hcfg : u.cfg = s.cfg := by rw [hu]; rfl
    have htim : u.timing = s.timing := by rw [hu]; rfl
    refine ⟨u.setVoice k (afterSymbol s.cfg code s.voices[k]), ?_, ?_⟩
    · rw [scanVoice_eq_next]
      refine ⟨code, by rw [hcfg, htim]; exact hcode, ?_⟩
      rw [execSymbol_of_legal hlegal hx, hcfg]
    · show u.setVoice k _ = s.setVoices _
      have hset : u.voices.set k (afterSymbol s.cfg code s.voices[k])
          = (scannedVoices s).take (k + 1) ++ s.voices.drop (k + 1) := by
        rw [hu]
        have hkl : k < (scannedVoices s).length := by omega
        have hsk : (scannedVoices s)[k] = afterSymbol s.cfg code s.voices[k] := by
          simp [scannedVoices, hsym, hcode]
        have hk' : ((scannedVoices s).take k).length = k := by simp; omega
        rw [State.setVoices_voices, List.set_append_right _ _ (by omega), hk', Nat.sub_self,
          List.drop_eq_getElem_cons hks, List.set_cons_zero, List.take_succ_eq_append_getElem hkl, hsk,
          List.append_assoc]
        rfl
      rw [State.setVoice, hset, hu]
      rfl) (by simp [P, State.setVoices])
  rw [trigScan_eq_next]
  refine ⟨p, hp, ?_⟩
  rw [hft, hPt, ← hv, ← hlen, List.take_length, hlen, List.drop_length, List.append_nil]

/-! ### A voice's turn -/

theorem voiceFetch_eq_next {v : Nat} {s t : State} : voiceFetch v s = .next t ↔
    ∃ x e, s.voices[v]? = some x ∧ readSample s.cfg x.sample x.pos = some e ∧
      t = s.setTmp { s.tmp with elem := sext16 e } := by
  simp only [voiceFetch, withVoice_eq_next]
  constructor
  · rintro ⟨x, hx, h⟩
    split at h
    · next e he => cases h; exact ⟨x, e, hx, he, rfl⟩
    · cases h
  · rintro ⟨x, e, hx, he, rfl⟩
    exact ⟨x, hx, by simp [he]⟩

theorem voiceStep_eq_next {v : Nat} {s t : State} : voiceStep v s = .next t ↔
    ∃ x, s.voices[v]? = some x ∧ ((x.pos = 0 ∧ t = s) ∨ (x.pos ≠ 0 ∧ ∃ len, tableLen s.cfg x.sample = some len ∧
      t = s.setVoice v { x with pos := if x.pos + 1 = len then 0 else x.pos + 1 })) := by
  simp only [voiceStep, withVoice_eq_next]
  refine exists_congr fun x => and_congr_right fun _ => ?_
  by_cases hp : x.pos = 0
  · simp [Voice.idle, hp, eq_comm]
  · simp only [Voice.idle, beq_iff_eq, hp, if_false, false_and, false_or, ne_eq, not_false_eq_true, true_and]
    cases hl : tableLen s.cfg x.sample <;> simp [eq_comm]

theorem voiceGain_eq_next {v : Nat} {s t : State} : voiceGain v s = .next t ↔
    ∃ x, s.voices[v]? = some x ∧ t = s.setTmp { s.tmp with gain := x.emph + x.volume } := by
  simp only [voiceGain, withVoice_eq_next, Host.Outcome.next.injEq, Voice.gain]
  exact exists_congr fun x => and_congr_right fun _ => eq_comm

theorem panMul_eq_next {v : Nat} {s t : State} : panMul v s = .next t ↔
    ∃ x, s.voices[v]? = some x ∧
      t = s.setTmp { s.tmp with prodL := s.tmp.gain * s.tmp.elem * x.pan,
                                prodR := s.tmp.gain * s.tmp.elem * ((s.cfg.panMax : Int) - x.pan) } := by
  simp only [panMul, withVoice_eq_next, Host.Outcome.next.injEq, panLeft, panRight]
  exact exists_congr fun x => and_congr_right fun _ => eq_comm

theorem voiceFetch_sameButMix {v : Nat} {s t : State} (h : voiceFetch v s = .next t) : SameButMix s t := by
  obtain ⟨_, _, -, -, rfl⟩ := voiceFetch_eq_next.mp h
  exact sameButMix_setTmp _ _

theorem voiceStep_sameButMix {v : Nat} {s t : State} (h : voiceStep v s = .next t) : SameButMix s t := by
  obtain ⟨_, -, ⟨-, rfl⟩ | ⟨-, _, -, rfl⟩⟩ := voiceStep_eq_next.mp h
  · exact .refl _
  · exact sameButMix_setVoice _ _ _

theorem voiceGain_sameButMix {v : Nat} {s t : State} (h : voiceGain v s = .next t) : SameButMix s t := by
  obtain ⟨_, -, rfl⟩ := voiceGain_eq_next.mp h
  exact sameButMix_setTmp _ _

theorem panMul_sameButMix {v : Nat} {s t : State} (h : panMul v s = .next t) : SameButMix s t := by
  obtain ⟨_, -, rfl⟩ := panMul_eq_next.mp h
  exact sameButMix_setTmp _ _

theorem mixVoice_sameButMix {v : Nat} {s t : State} (h : mixVoice v s = .next t) : SameButMix s t := by
  obtain ⟨x, -, h⟩ := withVoice_eq_next.mp h
  split at h
  · obtain ⟨s1, h1, h⟩ := andThen_eq_next.mp h
    obtain ⟨s2, h2, h⟩ := andThen_eq_next.mp h
    obtain ⟨s3, h3, h⟩ := andThen_eq_next.mp h
    obtain ⟨s4, h4, h⟩ := andThen_eq_next.mp h
    cases h
    exact ((((voiceFetch_sameButMix h1).trans (voiceStep_sameButMix h2)).trans (voiceGain_sameButMix h3)).trans
      (panMul_sameButMix h4)).trans (sameButMix_accAdd _)
  · cases h; exact .refl s

/-- A voice with a valid sample and an offset inside its table takes its whole turn (R188). -/
theorem mixVoice_of_valid {v : Nat} {s : State} {x : Voice} (hx : s.voices[v]? = some x)
    (hk : x.sample < s.cfg.samples.length) (hpos : x.pos < (tableLen s.cfg x.sample).getD 0) :
    mixVoice v s = .next { s with
      voices := s.voices.set v (steppedVoice s.cfg x)
      accL := wrapW s.cfg.accW (s.accL + leftOf s.cfg x)
      accR := wrapW s.cfg.accW (s.accR + rightOf s.cfg x)
      tmp := { s.tmp with elem := elementOf s.cfg x, gain := x.emph + x.volume,
                          prodL := leftOf s.cfg x, prodR := rightOf s.cfg x } } := by
  have htab : s.cfg.samples[x.sample]? = some s.cfg.samples[x.sample] := List.getElem?_eq_getElem hk
  have hlen : tableLen s.cfg x.sample = some (s.cfg.samples[x.sample]).length := by simp [tableLen, htab]
  have hp : x.pos < (s.cfg.samples[x.sample]).length := by simpa [hlen] using hpos
  have he : readSample s.cfg x.sample x.pos = some (s.cfg.samples[x.sample])[x.pos] := by
    simp [readSample, htab, hp]
  have hel : elementOf s.cfg x = sext16 (s.cfg.samples[x.sample])[x.pos] := by
    simp [elementOf, htab, hp, sext16]
  have hst : voiceStep v (s.setTmp { s.tmp with elem := elementOf s.cfg x })
      = .next ((s.setTmp { s.tmp with elem := elementOf s.cfg x }).setVoice v (steppedVoice s.cfg x)) := by
    rw [voiceStep_eq_next]
    refine ⟨x, hx, ?_⟩
    by_cases h0 : x.pos = 0
    · refine .inl ⟨h0, ?_⟩
      have : steppedVoice s.cfg x = x := by simp [steppedVoice, htab, h0]
      rw [this]
      exact State.setVoice_same hx
    · exact .inr ⟨h0, _, hlen, by simp [steppedVoice, htab, h0]⟩
  have hvlt : v < s.voices.length := (List.getElem?_eq_some_iff.mp hx).1
  have hval : sampleValid s.cfg x = true := decide_eq_true hk
  have hnew : (s.voices.set v (steppedVoice s.cfg x))[v]? = some (steppedVoice s.cfg x) := by
    simp [hvlt]
  have hsv : (steppedVoice s.cfg x).emph = x.emph ∧ (steppedVoice s.cfg x).volume = x.volume
      ∧ (steppedVoice s.cfg x).pan = x.pan := by
    simp only [steppedVoice, htab]
    split <;> exact ⟨rfl, rfl, rfl⟩
  unfold mixVoice
  rw [withVoice_of_some hx, if_pos hval]
  refine andThen_eq_next.mpr ⟨_, voiceFetch_eq_next.mpr ⟨x, _, hx, he, rfl⟩, ?_⟩
  rw [← hel]
  refine andThen_eq_next.mpr ⟨_, hst, ?_⟩
  refine andThen_eq_next.mpr ⟨_, voiceGain_eq_next.mpr ⟨_, hnew, rfl⟩, ?_⟩
  refine andThen_eq_next.mpr ⟨_, panMul_eq_next.mpr ⟨_, hnew, rfl⟩, ?_⟩
  simp only [accAdd, State.setTmp, State.setVoice, State.setVoices, State.setAcc, hsv, leftOf, rightOf, hk, if_true,
    Nat.cast_add]

theorem mixVoice_of_invalid {v : Nat} {s : State} {x : Voice} (hx : s.voices[v]? = some x)
    (hk : ¬ x.sample < s.cfg.samples.length) : mixVoice v s = .next s := by
  unfold mixVoice
  have hval : sampleValid s.cfg x = false := decide_eq_false hk
  rw [withVoice_of_some hx, hval]
  rfl

/-! ### The whole frame -/

theorem genFrame_eq_next {s t : State} : genFrame s = .next t ↔
    ∃ u w, (if tickStart s then trigScan (tickQuery s) else .next (tickQuery s)) = .next u ∧
      forEach (List.range s.cfg.nVoices) mixVoice (accClear u) = .next w ∧ t = packFrame w := by
  unfold genFrame
  simp only [andThen_eq_next, Host.Outcome.next.injEq, tickQuery_tmp]
  constructor
  · rintro ⟨u, hu, w, hw, rfl⟩; exact ⟨u, w, hu, hw, rfl⟩
  · rintro ⟨u, w, hu, hw, rfl⟩; exact ⟨u, hu, w, hw, rfl⟩

/-- GENFRAME writes the Voice Bank, the accumulators and the transients and nothing else (R189). -/
theorem genFrame_sameButMix {s t : State} (h : genFrame s = .next t) : SameButMix s t := by
  obtain ⟨u, w, hu, hw, rfl⟩ := genFrame_eq_next.mp h
  have h1 : SameButMix s u := by
    split at hu
    · exact (sameButMix_tickQuery s).trans (trigScan_sameButMix hu)
    · cases hu; exact sameButMix_tickQuery s
  exact ((h1.trans (sameButMix_accClear u)).trans
    (sameButMix_forEach (fun _ _ _ => mixVoice_sameButMix) _ _ _ hw)).trans (sameButMix_packFrame w)

/-- A state GENFRAME completes in: the configuration well-formed, the position in range, the voices those of `Cfg`,
every offset inside its table. -/
structure MixReady (s : State) : Prop where
  cfgWf : s.cfg.wf = true
  timing : TimingInRange s.cfg s.timing
  voicesStatic : s.voices.map staticOf = s.cfg.voices
  posInTable : ∀ x ∈ s.voices, x.pos < (tableLen s.cfg x.sample).getD 0

theorem Inv.mixReady {s : State} (h : Inv s) : MixReady s :=
  ⟨h.cfgWf, h.timing, h.voicesStatic, h.posInTable⟩

theorem MixReady.voiceCount {s : State} (h : MixReady s) : s.voices.length = s.cfg.nVoices := by
  have := congrArg List.length h.voicesStatic
  simpa [Cfg.nVoices] using this

theorem afterSymbol_static (c : Cfg) (code : SymCode) (x : Voice) :
    staticOf (afterSymbol c code x) = staticOf x := by
  unfold afterSymbol; split <;> rfl

theorem steppedVoice_static (c : Cfg) (x : Voice) : staticOf (steppedVoice c x) = staticOf x := by
  unfold steppedVoice
  split
  · rfl
  · split <;> rfl

theorem scannedVoices_static (s : State) : (scannedVoices s).map staticOf = s.voices.map staticOf := by
  apply List.ext_getElem?
  intro i
  simp only [scannedVoices, List.getElem?_map, List.getElem?_mapIdx, Option.map_map]
  congr 1
  funext x
  simp only [Function.comp]
  cases symbolAt s i <;> simp [afterSymbol_static]

theorem voicesAtFrame_static (s : State) : (voicesAtFrame s).map staticOf = s.voices.map staticOf := by
  unfold voicesAtFrame; split
  · exact scannedVoices_static s
  · rfl

/-- Every table of a well-formed configuration has at least two elements (R6). -/
theorem two_le_tableLen {c : Cfg} (hc : c.wf = true) {k : Nat} (hk : k < c.samples.length) :
    2 ≤ (tableLen c k).getD 0 := by
  simp only [Cfg.wf, Bool.and_eq_true] at hc
  have := (List.all_eq_true.mp hc.2.1) _ (List.getElem_mem hk)
  simpa [tableLen, hk] using this

theorem sample_of_voice {s : State} (h : MixReady s) {xs : List Voice}
    (hs : xs.map staticOf = s.cfg.voices) {x : Voice} (hx : x ∈ xs) : x.sample < s.cfg.samples.length := by
  have hc := h.cfgWf
  simp only [Cfg.wf, Bool.and_eq_true] at hc
  have hm : staticOf x ∈ s.cfg.voices := hs ▸ List.mem_map_of_mem hx
  have := (List.all_eq_true.mp hc.2.2.1) _ hm
  simp only [Bool.and_eq_true, decide_eq_true_eq] at this
  exact this.2.2

theorem voicesAtFrame_pos {s : State} (h : MixReady s) :
    ∀ x ∈ voicesAtFrame s, x.pos < (tableLen s.cfg x.sample).getD 0 := by
  intro x hx
  have hsamp : x.sample < s.cfg.samples.length :=
    sample_of_voice h ((voicesAtFrame_static s).trans h.voicesStatic) hx
  have h2 := two_le_tableLen h.cfgWf hsamp
  unfold voicesAtFrame at hx
  split at hx
  · obtain ⟨i, hi, rfl⟩ := List.mem_iff_getElem.mp hx
    simp only [scannedVoices, List.getElem_mapIdx] at hsamp h2 ⊢
    have hm := h.posInTable _ (List.getElem_mem (show i < s.voices.length by simpa [scannedVoices] using hi))
    cases hsym : symbolAt s i with
    | none => simpa [hsym] using hm
    | some code =>
      simp only [hsym, Option.map_some, Option.getD_some] at h2 ⊢
      unfold afterSymbol at h2 ⊢
      split at h2
      · next hb => rw [if_pos hb]; exact hm
      · next hb => rw [if_neg hb]; exact h2
  · exact h.posInTable x hx

theorem leftSum_snoc (c : Cfg) (xs : List Voice) (x : Voice) :
    leftSum c (xs ++ [x]) = leftSum c xs + leftOf c x := by simp [leftSum]

theorem rightSum_snoc (c : Cfg) (xs : List Voice) (x : Voice) :
    rightSum c (xs ++ [x]) = rightSum c xs + rightOf c x := by simp [rightSum]

/-- The mix of a list of voices from cleared accumulators (R185 to R188, R190). -/
theorem mix_spec {s : State} (h : MixReady s) {u : State} (hcfg : u.cfg = s.cfg)
    (hvs : u.voices = voicesAtFrame s) :
    ∃ w, forEach (List.range s.cfg.nVoices) mixVoice (accClear u) = .next w ∧
      w.voices = (voicesAtFrame s).map (steppedVoice s.cfg) ∧
      w.accL = wrapW s.cfg.accW (leftSum s.cfg (voicesAtFrame s)) ∧
      w.accR = wrapW s.cfg.accW (rightSum s.cfg (voicesAtFrame s)) ∧ SameButMix u w := by
  let xs := voicesAtFrame s
  have hst : xs.map staticOf = s.cfg.voices := (voicesAtFrame_static s).trans h.voicesStatic
  have hn : xs.length = s.cfg.nVoices := by simpa [Cfg.nVoices] using congrArg List.length hst
  have w0 : ∀ W, wrapW W 0 = 0 := fun W => by simp [wrapW]
  let P : Nat → State → Prop := fun k w =>
    w.voices = (xs.take k).map (steppedVoice s.cfg) ++ xs.drop k ∧
    w.accL = wrapW s.cfg.accW (leftSum s.cfg (xs.take k)) ∧
    w.accR = wrapW s.cfg.accW (rightSum s.cfg (xs.take k)) ∧ SameButMix u w
  obtain ⟨w, hw, hP⟩ := forEach_range (P := P) (body := mixVoice) (n := s.cfg.nVoices) (s := accClear u) (by
    rintro k w hk ⟨hv, hl, hr, hsame⟩
    have hk' : k < xs.length := by omega
    have hwc : w.cfg = s.cfg := hsame.cfg.trans hcfg
    have hmem : xs[k] ∈ xs := List.getElem_mem hk'
    have hx : w.voices[k]? = some xs[k] := by
      rw [hv]; exact getElem?_replaced (by simp; omega) hk'
    have hmix := mixVoice_of_valid hx (by rw [hwc]; exact sample_of_voice h hst hmem)
      (by rw [hwc]; exact voicesAtFrame_pos h _ hmem)
    refine ⟨_, hmix, ?_, ?_, ?_, hsame.trans (mixVoice_sameButMix hmix)⟩
    · simp only [hwc]
      have hkl : ((xs.take k).map (steppedVoice s.cfg)).length = k := by simp; omega
      rw [hv, List.set_append_right _ _ (by omega), hkl, Nat.sub_self, List.drop_eq_getElem_cons hk',
        List.set_cons_zero, List.take_succ_eq_append_getElem hk', List.map_append, List.append_assoc]
      rfl
    · simp only [hwc, hl, wrapW_wrapW_add]
      rw [List.take_succ_eq_append_getElem hk', leftSum_snoc]
    · simp only [hwc, hr, wrapW_wrapW_add]
      rw [List.take_succ_eq_append_getElem hk', rightSum_snoc]) ⟨by simpa using hvs, by simp [leftSum, w0], by simp [rightSum, w0], sameButMix_accClear u⟩
  obtain ⟨hv, hl, hr, hsame⟩ := hP
  rw [← hn, List.take_length] at hl hr
  rw [← hn, List.take_length, List.drop_length, List.append_nil] at hv
  exact ⟨w, hw, hv, hl, hr, hsame⟩

/-- GENFRAME completes, steps every voice, and returns the word of the exact sums (R189, R190). -/
theorem genFrame_spec {s : State} (h : MixReady s) :
    ∃ t, genFrame s = .next t ∧ SameButMix s t ∧
      t.voices = (voicesAtFrame s).map (steppedVoice s.cfg) ∧
      t.accL = wrapW s.cfg.accW (leftSum s.cfg (voicesAtFrame s)) ∧
      t.accR = wrapW s.cfg.accW (rightSum s.cfg (voicesAtFrame s)) ∧
      t.tmp.frame = wordOf s.cfg (leftSum s.cfg (voicesAtFrame s)) (rightSum s.cfg (voicesAtFrame s)) := by
  have hw : s.cfg.outShift + 16 ≤ s.cfg.accW := by
    have hc := h.cfgWf
    simp only [Cfg.wf, Cfg.constantsOk, Bool.and_eq_true, decide_eq_true_eq] at hc
    exact hc.1.2.2.2.2.2.2.2.1
  obtain ⟨u, hu, hcfg, hvs⟩ : ∃ u, (if tickStart s then trigScan (tickQuery s) else .next (tickQuery s)) = .next u ∧
      u.cfg = s.cfg ∧ u.voices = voicesAtFrame s := by
    by_cases ht : s.timing.sampleOfTick = 0
    · rw [if_pos (by simpa [tickStart] using ht)]
      have := trigScan_spec (s := tickQuery s) h.cfgWf h.timing h.voiceCount
      refine ⟨_, this, rfl, ?_⟩
      rw [voicesAtFrame, if_pos ht]; rfl
    · rw [if_neg (by simpa [tickStart] using ht)]
      exact ⟨_, rfl, rfl, by rw [voicesAtFrame, if_neg ht]; rfl⟩
  obtain ⟨w, hmix, hv, hl, hr, hsame⟩ := mix_spec h hcfg hvs
  have hgen : genFrame s = .next (packFrame w) := genFrame_eq_next.mpr ⟨u, w, hu, hmix, rfl⟩
  refine ⟨_, hgen, genFrame_sameButMix hgen, hv, hl, hr, ?_⟩
  have hwc : w.cfg = s.cfg := hsame.cfg.trans hcfg
  simp only [packFrame, State.setTmp, frameOf, wordOf, hwc, hl, hr, channel_wrapW hw, channel_eq_fieldOf]

end Sys2Proof.Machine
end

