-- ==== Sys2Proof/Laws/RingControl.lean ====
section
/-! SUPPORT. What the operations of the ring buffer controller can answer, and that a produced frame leaves the machine
ready for the next. -/

namespace Sys2Proof.Machine

open Sys2Proof.Safety

/-! ### What each operation can answer -/

theorem fillCheck_eq_next {s t : State} : fillCheck s = .next t ↔ enabled s .fillchk = true ∧
    ((s.filling = s.playing ∧ t = s) ∨ (s.filling ≠ s.playing ∧ t = s.setFill .writing 0)) := by
  simp only [fillCheck, guarded_eq_next]
  refine and_congr_right fun _ => ?_
  by_cases h : s.filling = s.playing
  · simp only [ringFull, h, beq_self_eq_true, if_true, Host.Outcome.next.injEq, true_and, ne_eq, not_true, false_and,
      or_false]
    exact eq_comm
  · simp only [ringFull, beq_iff_eq, h, if_false, Host.Outcome.next.injEq, false_and, false_or, ne_eq, not_false_eq_true,
      true_and]
    exact eq_comm

theorem produceFrame_eq_next {f : Nat} {s t : State} : produceFrame f s = .next t ↔
    ∃ u, genFrame s = .next u ∧ ringInRange s.cfg s.filling f = true ∧
      t = advance (u.setRing (s.ring.write (ringIndex s.cfg s.filling f) u.tmp.frame)) := by
  simp only [produceFrame, andThen_eq_next, Host.Outcome.next.injEq, storeFrame_eq_next]
  constructor
  · rintro ⟨u, hu, w, ⟨hr, rfl⟩, rfl⟩
    have h := genFrame_sameButMix hu
    exact ⟨u, hu, by rw [← h.cfg, ← h.filling]; exact hr, by rw [h.cfg, h.filling, h.ring]⟩
  · rintro ⟨u, hu, hr, rfl⟩
    have h := genFrame_sameButMix hu
    exact ⟨u, hu, _, ⟨by rw [h.cfg, h.filling]; exact hr, rfl⟩, by rw [h.cfg, h.filling, h.ring]⟩

theorem fillFrame_eq_next {s t : State} : fillFrame s = .next t ↔ enabled s .fillfrm = true ∧
    ∃ u, produceFrame s.frameIdx s = .next u ∧ t = countFrame u := by
  simp only [fillFrame, guarded_eq_next, andThen_eq_next, Host.Outcome.next.injEq]
  exact and_congr_right fun _ => exists_congr fun u => and_congr_right fun _ => eq_comm

theorem fillSlot_eq_next {s t : State} : fillSlot s = .next t ↔ enabled s .fillchk = true ∧
    ((s.filling = s.playing ∧ t = s) ∨ (s.filling ≠ s.playing ∧
      forEach (List.range s.cfg.bufferSize) (fun _ => gapThenFrame) (s.setFill .writing 0) = .next t)) := by
  simp only [fillSlot, andThen_eq_next, fillCheck_eq_next]
  constructor
  · rintro ⟨u, ⟨he, ⟨hf, rfl⟩ | ⟨hf, rfl⟩⟩, h⟩
    · have hc : u.fillState ≠ .writing := by
        simp only [enabled, Bool.and_eq_true, beq_iff_eq] at he
        rw [he.2]; decide
      rw [if_neg hc] at h
      exact ⟨he, .inl ⟨hf, by cases h; rfl⟩⟩
    · exact ⟨he, .inr ⟨hf, by simpa using h⟩⟩
  · rintro ⟨he, ⟨hf, rfl⟩ | ⟨hf, h⟩⟩
    · have hc : t.fillState ≠ .writing := by
        simp only [enabled, Bool.and_eq_true, beq_iff_eq] at he
        rw [he.2]; decide
      exact ⟨t, ⟨he, .inl ⟨hf, rfl⟩⟩, by rw [if_neg hc]⟩
    · exact ⟨_, ⟨he, .inr ⟨hf, rfl⟩⟩, by simpa using h⟩

theorem prefillSlot_eq_next {s t : State} : prefillSlot s = .next t ↔
    ∃ u, forEach (List.range s.cfg.bufferSize) produceFrame s = .next u ∧
      t = u.setFilling (nextSlot u.cfg.nSlots u.filling) := by
  simp only [prefillSlot, andThen_eq_next, Host.Outcome.next.injEq]
  exact exists_congr fun u => and_congr_right fun _ => eq_comm

theorem prefillRing_eq_next {s t : State} : prefillRing s = .next t ↔ enabled s .prefill = true ∧
    ∃ u, forEach (List.range s.cfg.nSlots) (fun _ => prefillSlot) s = .next u ∧ t = u.setPrefilled true := by
  simp only [prefillRing, guarded_eq_next, andThen_eq_next, Host.Outcome.next.injEq]
  exact and_congr_right fun _ => exists_congr fun u => and_congr_right fun _ => eq_comm

theorem startDevice_eq_next {s t : State} : startDevice s = .next t ↔ enabled s .start = true ∧
    t = (s.setCursor (nextSlot s.cfg.nSlots s.playing) 0).setDevActive true := by
  simp only [startDevice, guarded_eq_next, Host.Outcome.next.injEq, rearmDevice]
  exact and_congr_right fun _ => eq_comm

theorem completeSlot_eq_next {s t : State} : completeSlot s = .next t ↔ enabled s .complete = true ∧
    t = s.setCursor (nextSlot s.cfg.nSlots s.playing) 0 := by
  simp only [completeSlot, guarded_eq_next, Host.Outcome.next.injEq, rearmDevice]
  exact and_congr_right fun _ => eq_comm

theorem deviceRead_eq_next {s t : State} : deviceRead s = .next t ↔ enabled s .devread = true ∧
    ringInRange s.cfg (streamSlot s) s.devRd = true ∧
      t = (s.setCursor s.playing (s.devRd + 1)).emit (ringWord s (ringIndex s.cfg (streamSlot s) s.devRd)) := by
  simp only [deviceRead, guarded_eq_next, loadFrame_eq_next, Host.Outcome.next.injEq]
  exact and_congr_right fun _ => and_congr_right fun _ => eq_comm

/-- What a turn of the Output Device can do: nothing before START, else its one enabled step (R227). -/
theorem deviceTurn_eq_next {s t : State} : deviceTurn s = .next t ↔
    (s.devActive = false ∧ t = s) ∨ (s.devActive = true ∧ completionPending s = true ∧ completeSlot s = .next t) ∨
    (s.devActive = true ∧ completionPending s = false ∧ deviceRead s = .next t) := by
  unfold deviceTurn
  cases s.devActive <;> cases completionPending s <;> simp [eq_comm]

/-- A turn of the device writes its own side only (R81). -/
theorem deviceTurn_keeps {s t : State} (h : deviceTurn s = .next t) :
    t = { s with playing := t.playing, devRd := t.devRd, out := t.out } := by
  obtain ⟨-, rfl⟩ | ⟨-, -, h⟩ | ⟨-, -, h⟩ := deviceTurn_eq_next.mp h
  · rfl
  · rw [(completeSlot_eq_next.mp h).2]; rfl
  · rw [(deviceRead_eq_next.mp h).2.2]; rfl

theorem deviceGap_of_nil {s : State} (h : s.gaps = []) : deviceGap s = .next s := by
  simp [deviceGap, h]

theorem deviceGap_of_cons {s : State} {n : Nat} {rest : List Nat} (h : s.gaps = n :: rest) :
    deviceGap s = forEach (List.range n) (fun _ => deviceTurn) (s.setGaps rest) := by
  simp [deviceGap, h]

/-- A gap uses up its number and writes the device's side only (R212). -/
theorem deviceGap_keeps {s t : State} (h : deviceGap s = .next t) :
    t = { s with playing := t.playing, devRd := t.devRd, out := t.out, gaps := s.gaps.tail } := by
  cases hg : s.gaps with
  | nil =>
    rw [deviceGap_of_nil hg] at h
    cases h
    rw [List.tail_nil, ← hg]
  | cons n rest =>
    rw [deviceGap_of_cons hg] at h
    refine forEach_keeps (body := fun _ => deviceTurn)
      (P := fun u => u = { s with playing := u.playing, devRd := u.devRd, out := u.out, gaps := rest })
      (fun _ u w hu hw => ?_) _ _ _ rfl h
    rw [deviceTurn_keeps hw, hu]

/-- With no gaps to come FILL is FILLCHK and BUFFER_SIZE times FILLFRM. -/
theorem gapThenFrame_of_nil {s : State} (h : s.gaps = []) : gapThenFrame s = fillFrame s := by
  simp [gapThenFrame, andThen, deviceGap_of_nil h]

/-! ### The frame after the frame -/

theorem Timing.advance_inRange {c : Cfg} {t : Timing} (h : TimingInRange c t) : TimingInRange c (t.advance c) := by
  obtain ⟨h1, h2, h3⟩ := h
  unfold Timing.advance TimingInRange
  split
  · split
    · split
      · exact ⟨by dsimp; omega, by dsimp; omega, by dsimp; omega⟩
      · exact ⟨by dsimp; omega, by dsimp; omega, by dsimp; omega⟩
    · exact ⟨by dsimp; omega, by dsimp; omega, by dsimp; omega⟩
  · exact ⟨by dsimp; omega, by dsimp; omega, by dsimp; omega⟩

/-- A step keeps a voice inside its table (R156). -/
theorem steppedVoice_pos {c : Cfg} {x : Voice} (h : x.pos < (tableLen c x.sample).getD 0) :
    (steppedVoice c x).pos < (tableLen c (steppedVoice c x).sample).getD 0 := by
  unfold steppedVoice
  cases ht : c.samples[x.sample]? with
  | none => simpa using h
  | some table =>
    have hl : tableLen c x.sample = some table.length := by simp [tableLen, ht]
    rw [hl, Option.getD_some] at h
    dsimp only
    split
    · next h0 => simpa [hl] using h
    · next h0 =>
      dsimp only
      rw [hl, Option.getD_some]
      split <;> omega

theorem steppedVoice_emph (c : Cfg) (x : Voice) : (steppedVoice c x).emph = x.emph := by
  unfold steppedVoice
  split
  · rfl
  · split <;> rfl

/-- After a frame the machine is ready for another. -/
theorem MixReady.genFrame {s t : State} (h : MixReady s) (ht : genFrame s = .next t) : MixReady t := by
  obtain ⟨t', ht', hsame, hv, -⟩ := genFrame_spec h
  rw [ht] at ht'
  cases ht'
  refine ⟨by rw [hsame.cfg]; exact h.cfgWf, by rw [hsame.cfg, hsame.timing]; exact h.timing, ?_, ?_⟩
  · rw [hv, hsame.cfg, List.map_map]
    have : staticOf ∘ steppedVoice s.cfg = staticOf := funext (steppedVoice_static s.cfg)
    rw [this, voicesAtFrame_static]; exact h.voicesStatic
  · rw [hv, hsame.cfg]
    intro x hx
    obtain ⟨y, hy, rfl⟩ := List.mem_map.mp hx
    exact steppedVoice_pos (voicesAtFrame_pos h y hy)

theorem MixReady.advance {s : State} (h : MixReady s) : MixReady (advance s) :=
  ⟨h.cfgWf, Timing.advance_inRange h.timing, h.voicesStatic, h.posInTable⟩

theorem MixReady.setRing {s : State} (h : MixReady s) (r : Ring) : MixReady (s.setRing r) :=
  ⟨h.cfgWf, h.timing, h.voicesStatic, h.posInTable⟩

theorem MixReady.setFilling {s : State} (h : MixReady s) (n : Nat) : MixReady (s.setFilling n) :=
  ⟨h.cfgWf, h.timing, h.voicesStatic, h.posInTable⟩

theorem MixReady.setFill {s : State} (h : MixReady s) (x : FillState) (n : Nat) : MixReady (s.setFill x n) :=
  ⟨h.cfgWf, h.timing, h.voicesStatic, h.posInTable⟩

theorem MixReady.countFrame {s : State} (h : MixReady s) : MixReady (countFrame s) := by
  unfold Sys2Proof.Machine.countFrame
  split
  · exact (h.setFilling _).setFill _ _
  · exact h.setFill _ _

/-- A frame is produced wherever its place in RING exists, and the machine is ready for the next (R211, R222). -/
theorem produceFrame_spec {s : State} {f : Nat} (h : MixReady s) (hr : ringInRange s.cfg s.filling f = true) :
    ∃ t u, genFrame s = .next u ∧ produceFrame f s = .next t ∧ MixReady t ∧
      t = Machine.advance (u.setRing (s.ring.write (ringIndex s.cfg s.filling f) u.tmp.frame)) := by
  obtain ⟨u, hu, -⟩ := genFrame_spec h
  exact ⟨_, u, hu, produceFrame_eq_next.mpr ⟨u, hu, hr, rfl⟩, ((h.genFrame hu).setRing _).advance, rfl⟩

end Sys2Proof.Machine
end

