-- ==== Sys2Proof/Laws/FrameLocal.lean ====
section
/-! SUPPORT. GENFRAME works on the Timing State, the Voice Bank, the accumulators and the transients alone: it commutes with
exchanging everything else (R189, R195), so a frame is the same whatever RING, its indices and the device hold. -/

namespace Sys2Proof.Machine

/-- w with what a frame works on taken from v. -/
def transplant (w v : State) : State :=
  { w with timing := v.timing, voices := v.voices, accL := v.accL, accR := v.accR, tmp := v.tmp }

/-- f applied to a next state. -/
def mapNext (f : State → State) : Result → Result
  | .next s => .next (f s)
  | .fault e => .fault e
  | .refused e => .refused e

/-- An operation that works on those fields alone. -/
def FrameLocal (op : State → Result) : Prop :=
  ∀ w v : State, w.cfg = v.cfg → op (transplant w v) = mapNext (transplant w) (op v)

/-- An operation that keeps the configuration (R20). -/
def CfgKept (op : State → Result) : Prop := ∀ s t, op s = .next t → t.cfg = s.cfg

theorem FrameLocal.andThen {f g : State → Result} (hf : FrameLocal f) (kf : CfgKept f) (hg : FrameLocal g) :
    FrameLocal (fun s => andThen (f s) g) := by
  intro w v h
  show Machine.andThen (f (transplant w v)) g = mapNext _ (Machine.andThen (f v) g)
  rw [hf w v h]
  cases hv : f v with
  | next u => exact hg w u (h.trans (kf v u hv).symm)
  | fault e => rfl
  | refused e => rfl

theorem CfgKept.andThen {f g : State → Result} (kf : CfgKept f) (kg : CfgKept g) :
    CfgKept (fun s => andThen (f s) g) := by
  intro s t h
  obtain ⟨u, hu, ht⟩ := andThen_eq_next.mp h
  exact (kg u t ht).trans (kf s u hu)

theorem FrameLocal.forEach {body : Nat → State → Result} (hb : ∀ x, FrameLocal (body x)) (kb : ∀ x, CfgKept (body x)) :
    ∀ xs, FrameLocal (forEach xs body)
  | [] => fun _ _ _ => rfl
  | x :: xs => FrameLocal.andThen (hb x) (kb x) (FrameLocal.forEach hb kb xs)

theorem local_withVoice {v : Nat} {k : Voice → State → Result} (hk : ∀ x, FrameLocal (k x)) :
    FrameLocal (fun s => withVoice v s (fun x => k x s)) := by
  intro w u h
  have e : (transplant w u).voices = u.voices := rfl
  cases hx : u.voices[v]? with
  | none => simp only [withVoice, e, hx]; rfl
  | some x => simp only [withVoice, e, hx]; exact hk x w u h

theorem local_trigger (v l : Nat) : FrameLocal (trigger v l) := by
  apply local_withVoice (k := fun x s => .next (s.setVoice v { x with pos := 1, emph := emphasis l s.cfg.emphStep }))
  intro x w u h
  simp [transplant, mapNext, h, State.setVoice, State.setVoices]

theorem local_execSymbol (v : Nat) (c : SymCode) : FrameLocal (execSymbol v c) := by
  intro w u h
  unfold execSymbol
  split
  · rfl
  · split
    · exact local_trigger _ _ w u h
    · rfl

theorem local_scanVoice (p v : Nat) : FrameLocal (scanVoice p v) := by
  intro w u h
  unfold scanVoice
  show (match readPattern w.cfg p v u.timing.tickOfBar with | some code => execSymbol v code (transplant w u) | none => _) = _
  rw [h]
  cases readPattern u.cfg p v u.timing.tickOfBar with
  | none => rfl
  | some c => exact local_execSymbol _ _ w u h

theorem local_trigScan : FrameLocal trigScan := by
  intro w u h
  unfold trigScan
  show (match readSong w.cfg u.timing.bar with | some p => forEach (List.range w.cfg.nVoices) (scanVoice p) (transplant w u) | none => _) = _
  rw [h]
  cases readSong u.cfg u.timing.bar with
  | none => rfl
  | some p =>
    refine FrameLocal.forEach (fun x => local_scanVoice p x) (fun x s t ht => ?_) _ w u h
    obtain ⟨c, -, hc⟩ := scanVoice_eq_next.mp ht
    exact (execSymbol_sameButMix hc).cfg

theorem local_voiceFetch (v : Nat) : FrameLocal (voiceFetch v) := by
  apply local_withVoice (k := fun x s => match readSample s.cfg x.sample x.pos with
    | some e => .next (s.setTmp { s.tmp with elem := sext16 e })
    | none => .fault (.outOfRange .sample))
  intro x w u h
  have e : (transplant w u).cfg = u.cfg := h
  dsimp only
  rw [e]
  cases readSample u.cfg x.sample x.pos <;> rfl

theorem local_voiceStep (v : Nat) : FrameLocal (voiceStep v) := by
  apply local_withVoice (k := fun x s => if x.idle then .next s
    else match tableLen s.cfg x.sample with
      | some len => .next (s.setVoice v { x with pos := if x.pos + 1 = len then 0 else x.pos + 1 })
      | none => .fault (.outOfRange .sample))
  intro x w u h
  by_cases hi : x.idle
  · simp [hi, mapNext]
  · simp only [hi]
    have e : (transplant w u).cfg = u.cfg := h
    rw [e]
    cases tableLen u.cfg x.sample <;> rfl

theorem local_voiceGain (v : Nat) : FrameLocal (voiceGain v) := by
  apply local_withVoice (k := fun x s => .next (s.setTmp { s.tmp with gain := x.gain }))
  intro x w u h; rfl

theorem local_panMul (v : Nat) : FrameLocal (panMul v) := by
  apply local_withVoice (k := fun x s => .next
    (s.setTmp { s.tmp with prodL := panLeft x s.tmp.gain s.tmp.elem, prodR := panRight s.cfg x s.tmp.gain s.tmp.elem }))
  intro x w u h
  simp [transplant, mapNext, State.setTmp, panRight, h]

theorem local_pure {f : State → State} (hf : ∀ w v, w.cfg = v.cfg → f (transplant w v) = transplant w (f v)) :
    FrameLocal (fun s => .next (f s)) := fun w v h => by simp [mapNext, hf w v h]

theorem local_mixVoice (v : Nat) : FrameLocal (mixVoice v) := by
  apply local_withVoice (k := fun x s => if sampleValid s.cfg x then
      andThen (voiceFetch v s) fun s1 =>
      andThen (voiceStep v s1) fun s2 =>
      andThen (voiceGain v s2) fun s3 =>
      andThen (panMul v s3) fun s4 =>
      .next (accAdd s4)
    else .next s)
  intro x w u h
  have e : (transplant w u).cfg = u.cfg := h
  dsimp only
  rw [e]
  by_cases hv : sampleValid u.cfg x
  · rw [if_pos hv, if_pos hv]
    refine FrameLocal.andThen (local_voiceFetch v) (fun _ _ h => (voiceFetch_sameButMix h).cfg) ?_ w u h
    refine FrameLocal.andThen (local_voiceStep v) (fun _ _ h => (voiceStep_sameButMix h).cfg) ?_
    refine FrameLocal.andThen (local_voiceGain v) (fun _ _ h => (voiceGain_sameButMix h).cfg) ?_
    refine FrameLocal.andThen (local_panMul v) (fun _ _ h => (panMul_sameButMix h).cfg) ?_
    exact local_pure fun w v h => by simp [transplant, accAdd, State.setAcc, h]
  · rw [if_neg hv, if_neg hv]
    rfl

/-- GENFRAME does not see RING, its indices, the fill micro-state or the device (R195). -/
theorem local_genFrame : FrameLocal genFrame := by
  intro w u h
  have key : FrameLocal (fun s1 => andThen (if s1.tmp.tick then trigScan s1 else .next s1) fun s2 =>
      andThen (forEach (List.range s2.cfg.nVoices) mixVoice (accClear s2)) fun s3 => .next (packFrame s3)) := by
    refine FrameLocal.andThen ?_ ?_ ?_
    · intro w v h
      show (if v.tmp.tick then _ else _) = _
      by_cases ht : v.tmp.tick = true
      · simpa [ht] using local_trigScan w v h
      · simp [ht, mapNext]
    · intro s t ht
      dsimp only at ht
      split at ht
      · exact (trigScan_sameButMix ht).cfg
      · cases ht; rfl
    · refine FrameLocal.andThen ?_ ?_ ?_
      · intro w v h
        have := FrameLocal.forEach local_mixVoice (fun _ _ _ h => (mixVoice_sameButMix h).cfg) (List.range v.cfg.nVoices) w (accClear v) h
        rw [← this]
        show forEach (List.range w.cfg.nVoices) _ _ = _
        rw [h]; rfl
      · intro s t ht
        exact (sameButMix_forEach (fun _ _ _ => mixVoice_sameButMix) _ _ _ ht).cfg
      · exact local_pure fun w v h => by simp [transplant, packFrame, State.setTmp, h]
  have e : ∀ s, genFrame s = (fun s1 => andThen (if s1.tmp.tick then trigScan s1 else .next s1) fun s2 =>
      andThen (forEach (List.range s2.cfg.nVoices) mixVoice (accClear s2)) fun s3 => .next (packFrame s3)) (tickQuery s) := by
    intro s
    unfold genFrame
    dsimp only
    cases hq : (if (tickQuery s).tmp.tick = true then trigScan (tickQuery s) else Host.Outcome.next (tickQuery s)) with
    | next u =>
      have : u.cfg = s.cfg := by
        split at hq
        · exact (trigScan_sameButMix hq).cfg
        · cases hq; rfl
      simp [this]
    | fault e => rfl
    | refused e => rfl
  rw [e, e, ← key w (tickQuery u) h]
  rfl
/-- The frame word, the voices and the accumulators of GENFRAME, from any state with the same configuration. -/
theorem genFrame_transplant {w v t : State} (h : w.cfg = v.cfg) (ht : genFrame v = .next t) :
    genFrame (transplant w v) = .next (transplant w t) := by
  rw [local_genFrame w v h, ht]; rfl

/-- ADVANCE likewise (R124). -/
theorem advance_transplant {w v : State} (h : w.cfg = v.cfg) : advance (transplant w v) = transplant w (advance v) := by
  simp [advance, transplant, State.setTiming, h]

end Sys2Proof.Machine
end

