-- ==== Sys2Proof/Laws/PerInstr.lean ====
section
/-! SUPPORT. One lemma per instruction: the bits of its command are those its row of the opcode table fixes (R91, R100). -/

namespace Sys2Proof.Laws.EncodingRow

/-- The bits a row of the opcode table fixes: its width, its mask, and the value under the mask. -/
structure Row where
  nbits : Nat
  mask  : Nat
  value : Nat
  deriving DecidableEq, Repr

/-- The row of an instruction, as the table writes it. -/
def row : Instr → Row
  | .nohit _ => ⟨8, 0xFF, 0x20⟩
  | .hit1 _ => ⟨8, 0xFF, 0x31⟩
  | .hit2 _ => ⟨8, 0xFF, 0x32⟩
  | .hit3 _ => ⟨8, 0xFF, 0x33⟩
  | .hit4 _ => ⟨8, 0xFF, 0x34⟩
  | .hit5 _ => ⟨8, 0xFF, 0x35⟩
  | .hit6 _ => ⟨8, 0xFF, 0x36⟩
  | .hit7 _ => ⟨8, 0xFF, 0x37⟩
  | .hit8 _ => ⟨8, 0xFF, 0x38⟩
  | .hit9 _ => ⟨8, 0xFF, 0x39⟩
  | .reset => ⟨16, 0xFFFF, 0x0000⟩
  | .tickq => ⟨16, 0xFFFF, 0x0001⟩
  | .advance => ⟨16, 0xFFFF, 0x0002⟩
  | .trigscan => ⟨16, 0xFFFF, 0x0003⟩
  | .vfetch _ => ⟨16, 0x00FF, 0x0004⟩
  | .vstep _ => ⟨16, 0x00FF, 0x0005⟩
  | .gain _ => ⟨16, 0x00FF, 0x0006⟩
  | .panmul _ => ⟨16, 0x00FF, 0x0007⟩
  | .accclr => ⟨16, 0xFFFF, 0x0008⟩
  | .accadd => ⟨16, 0xFFFF, 0x0009⟩
  | .pack => ⟨16, 0xFFFF, 0x000A⟩
  | .mixv _ => ⟨16, 0x00FF, 0x000B⟩
  | .genframe => ⟨16, 0xFFFF, 0x000C⟩
  | .fillchk => ⟨16, 0xFFFF, 0x000D⟩
  | .fillfrm => ⟨16, 0xFFFF, 0x000E⟩
  | .fill => ⟨16, 0xFFFF, 0x000F⟩
  | .complete => ⟨16, 0xFFFF, 0x0010⟩
  | .devread => ⟨16, 0xFFFF, 0x0011⟩
  | .prefill => ⟨16, 0xFFFF, 0x0012⟩
  | .start => ⟨16, 0xFFFF, 0x0013⟩

/-- The width of a command's encoding and its bits (R90). -/
def bits : Cmd → Nat × Nat
  | .op w => (16, w.toNat)
  | .sym _ code => (8, code.toNat)

/-- The command of i has the width of i's row and, under the row's mask, the row's value. -/
def Statement (i : Instr) : Prop :=
  (bits (encode i)).1 = (row i).nbits ∧ (bits (encode i)).2 &&& (row i).mask = (row i).value

/-- The low byte of an OP word holds the operation number, whatever the voice field. -/
theorem opWord_low (op : BitVec 5) (v : VoiceField) : (opWord op v).toNat &&& 0xFF = op.toNat := by
  have h5 : (OpWord.opField (opWord op v)).toNat = op.toNat := by rw [opField_opWord]
  have h3 : (OpWord.zeroField (opWord op v)).toNat = 0 := by rw [zeroField_opWord]; rfl
  simp only [OpWord.opField, OpWord.zeroField, BitVec.extractLsb'_toNat, Nat.shiftRight_eq_div_pow]
    at h5 h3
  rw [show (0xFF : Nat) = 2 ^ 8 - 1 from rfl, Nat.and_two_pow_sub_one_eq_mod]
  omega

theorem nohit (v : Nat) : Statement (.nohit v) := ⟨rfl, by simp [bits, encode, row]⟩
theorem hit1 (v : Nat) : Statement (.hit1 v) := ⟨rfl, by simp [bits, encode, row]⟩
theorem hit2 (v : Nat) : Statement (.hit2 v) := ⟨rfl, by simp [bits, encode, row]⟩
theorem hit3 (v : Nat) : Statement (.hit3 v) := ⟨rfl, by simp [bits, encode, row]⟩
theorem hit4 (v : Nat) : Statement (.hit4 v) := ⟨rfl, by simp [bits, encode, row]⟩
theorem hit5 (v : Nat) : Statement (.hit5 v) := ⟨rfl, by simp [bits, encode, row]⟩
theorem hit6 (v : Nat) : Statement (.hit6 v) := ⟨rfl, by simp [bits, encode, row]⟩
theorem hit7 (v : Nat) : Statement (.hit7 v) := ⟨rfl, by simp [bits, encode, row]⟩
theorem hit8 (v : Nat) : Statement (.hit8 v) := ⟨rfl, by simp [bits, encode, row]⟩
theorem hit9 (v : Nat) : Statement (.hit9 v) := ⟨rfl, by simp [bits, encode, row]⟩
theorem reset : Statement .reset := by unfold Statement; decide
theorem tickq : Statement .tickq := by unfold Statement; decide
theorem advance : Statement .advance := by unfold Statement; decide
theorem trigscan : Statement .trigscan := by unfold Statement; decide
theorem vfetch (v : VoiceField) : Statement (.vfetch v) := ⟨rfl, opWord_low _ v⟩
theorem vstep (v : VoiceField) : Statement (.vstep v) := ⟨rfl, opWord_low _ v⟩
theorem gain (v : VoiceField) : Statement (.gain v) := ⟨rfl, opWord_low _ v⟩
theorem panmul (v : VoiceField) : Statement (.panmul v) := ⟨rfl, opWord_low _ v⟩
theorem accclr : Statement .accclr := by unfold Statement; decide
theorem accadd : Statement .accadd := by unfold Statement; decide
theorem pack : Statement .pack := by unfold Statement; decide
theorem mixv (v : VoiceField) : Statement (.mixv v) := ⟨rfl, opWord_low _ v⟩
theorem genframe : Statement .genframe := by unfold Statement; decide
theorem fillchk : Statement .fillchk := by unfold Statement; decide
theorem fillfrm : Statement .fillfrm := by unfold Statement; decide
theorem fill : Statement .fill := by unfold Statement; decide
theorem complete : Statement .complete := by unfold Statement; decide
theorem devread : Statement .devread := by unfold Statement; decide
theorem prefill : Statement .prefill := by unfold Statement; decide
theorem start : Statement .start := by unfold Statement; decide

end Sys2Proof.Laws.EncodingRow
end

