-- ==== Sys2Proof/Laws/Traces.lean ====
section
/-! SUPPORT. Traces run one after the other: what a run of `is ++ js` can answer, emit, and whether it is kept up. -/

namespace Sys2Proof.Safety

open Sys2Proof.Machine

theorem runInstrs_cons_eq_next {i : Instr} {is : List Instr} {s t : State} :
    runInstrs (i :: is) s = .next t ↔ ∃ u, exec i s = .next u ∧ runInstrs is u = .next t := by
  simp only [runInstrs, andThen_eq_next]

theorem runInstrs_append_eq_next {is js : List Instr} {s t : State} :
    runInstrs (is ++ js) s = .next t ↔ ∃ u, runInstrs is s = .next u ∧ runInstrs js u = .next t := by
  induction is generalizing s with
  | nil => simp [runInstrs]
  | cons i is ih =>
    simp only [List.cons_append, runInstrs_cons_eq_next, ih]
    exact ⟨fun ⟨u, hu, v, hv, ht⟩ => ⟨v, ⟨u, hu, hv⟩, ht⟩, fun ⟨v, ⟨u, hu, hv⟩, ht⟩ => ⟨u, hu, v, hv, ht⟩⟩

/-- One more copy of a trace is that copy at the end of the others. -/
theorem repeatTrace_succ (n : Nat) (is : List Instr) : repeatTrace (n + 1) is = repeatTrace n is ++ is := by
  simp [repeatTrace, List.replicate_succ']

/-- What a trace emits after its first instruction has run. -/
theorem emittedBy_cons {i : Instr} {is : List Instr} {s t : State} (h : exec i s = .next t) :
    emittedBy (i :: is) s = emits i s ++ emittedBy is t := by
  simp [emittedBy, h]

/-- A kept-up trace after its first instruction has run (R230). -/
theorem keptUp_cons {i : Instr} {is : List Instr} {s t : State} (h : exec i s = .next t) :
    keptUp (i :: is) s = true ↔ (i = .complete → s.fillState = .check ∧ s.filling = s.playing) ∧ keptUp is t = true := by
  rw [keptUp, h]
  by_cases hi : i = .complete <;> simp [hi]

end Sys2Proof.Safety
end

