-- ==== Sys2Proof/Tests/Slice0.lean ====
section
/-! SUPPORT. The modeller's own tests: ill-formed terms refused, words written out from the spec's encoding, the spec's
vectors (95_test_vectors.md, by hand from the rules), and for each statement with hypotheses a state that meets them. -/

namespace Sys2Proof.Tests

open Sys2Proof.Machine Sys2Proof.Safety

/-! ### Configurations and states -/

/-- Program P1. -/
def cfg1 : Cfg :=
  { Config.device with
    barLen := 2, samplesPerTick := 3
    voices := [{ pan := 16, volume := 100, sample := 0 }]
    samples := [[0x0000, 0x03E8, 0xF830, 0x0BB8]]
    patterns := [[[0x35, 0x20]]] }

/-- Program P2. -/
def cfg2 : Cfg :=
  { Config.device with
    barLen := 2, samplesPerTick := 2
    voices := [{ pan := 32, volume := 255, sample := 0 }, { pan := 0, volume := 128, sample := 1 }]
    samples := [[0x0000, 0x4000, 0xC000, 0x2000, 0xE000], [0x0000, 0x7FFF, 0x8000]]
    patterns := [[[0x39, 0x31], [0x20, 0x31]], [[0x20, 0x20], [0x39, 0x20]]]
    song := [0, 1] }

/-- Program P3, six full-scale voices. -/
def cfg3 : Cfg :=
  { Config.device with
    barLen := 1, samplesPerTick := 3
    voices := List.replicate 6 { pan := 32, volume := 255, sample := 0 }
    samples := [[0x0000, 0x7FFF, 0x8000]]
    patterns := [List.replicate 6 [0x39]] }

/-- Program P4: N = 3, B = 2. -/
def cfg4 : Cfg :=
  { Config.device with
    barLen := 1, samplesPerTick := 16, nSlots := 3, bufferSize := 2
    voices := [{ pan := 16, volume := 128, sample := 0 }]
    samples := [(List.range 17).map fun i => BitVec.ofNat 16 (16 * i)]
    patterns := [[[0x31]]] }

/-- A voice of a configuration's first voice with a given offset and emphasis. -/
def voiceAt (c : Cfg) (pos emph : Nat) : Voice :=
  { Voice.ofCfg ((c.voices[0]?).getD { pan := 0, volume := 0, sample := 0 }) with pos := pos, emph := emph }

/-- The reset state of a configuration with the accumulators at 0, the free draws left aside. -/
def fresh (c : Cfg) : State := { State.resetWith c with accL := 0, accR := 0 }

/-- Words written n for 0x000n000n. -/
def nn (n : Nat) : FrameWord := BitVec.ofNat 32 (n * 0x00010001)

/-- P4 after PREFILL, before START (trace K, step 1). -/
def prefilled4 : State :=
  { fresh cfg4 with
    timing := { bar := 0, tickOfBar := 0, sampleOfTick := 6 }
    voices := [voiceAt cfg4 7 0]
    ring := [(0, nn 1), (1, nn 2), (2, nn 3), (3, nn 4), (4, nn 5), (5, nn 6)]
    prefilled := true }

/-- P4 after START (trace K, step 2). -/
def booted4 : State := { prefilled4 with playing := 0, devActive := true }

/-- P4 with a completion pending (trace K, step 5). -/
def pending4 : State := { booted4 with devRd := 2 }

/-- P4 with a slot free (trace K, step 6). -/
def free4 : State := { booted4 with playing := 1 }

/-- P4 at the last frame of a fill (trace K, step 8). -/
def writing4 : State :=
  { booted4 with
    timing := { bar := 0, tickOfBar := 0, sampleOfTick := 7 }
    voices := [voiceAt cfg4 8 0]
    ring := [(0, nn 7), (1, nn 2), (2, nn 3), (3, nn 4), (4, nn 5), (5, nn 6)]
    playing := 1, fillState := .writing, frameIdx := 1 }

/-- P2 at the first tick of bar 1. -/
def scan2 : State :=
  { fresh cfg2 with timing := { bar := 1, tickOfBar := 0, sampleOfTick := 0 }, voices := [voiceAt cfg2 3 0, voiceAt cfg2 0 0] }

/-- A view of the state after an instruction; none where it stops. -/
def after {α : Type} (i : Instr) (s : State) (f : State → α) : Option α :=
  match exec i s with
  | .next t => some (f t)
  | _ => none

/-- The invariant in decidable pieces. -/
abbrev InvChecks (s : State) : Prop :=
  (s.cfg.wf = true ∧ (s.timing.bar < s.cfg.loopBars ∧ s.timing.tickOfBar < s.cfg.barLen
    ∧ s.timing.sampleOfTick < s.cfg.samplesPerTick) ∧ s.voices.map staticOf = s.cfg.voices)
  ∧ ((∀ x ∈ s.voices, x.pos < (tableLen s.cfg x.sample).getD 0)
    ∧ (∀ x ∈ s.voices, ∃ j < 9, x.emph = j * s.cfg.emphStep))
  ∧ (s.playing < s.cfg.nSlots ∧ s.filling < s.cfg.nSlots ∧ s.frameIdx < s.cfg.bufferSize
    ∧ (s.fillState = .check → s.frameIdx = 0) ∧ s.devRd ≤ s.cfg.bufferSize)
  ∧ ((s.devActive = false → s.devRd = 0) ∧ (s.devActive = false → s.playing = s.cfg.nSlots - 1)
    ∧ (s.devActive = true → s.prefilled = true)
    ∧ (s.prefilled = false → s.filling = 0 ∧ s.fillState = .check))
  ∧ (s.ring.wf ∧ (∀ p ∈ s.ring, p.1 < s.cfg.nSlots * s.cfg.bufferSize)
    ∧ (s.prefilled = true → ∀ a < s.cfg.nSlots * s.cfg.bufferSize, (s.ring.read a).isSome))

theorem inv_of_checks {s : State} (h : InvChecks s) (hl : s.accL = 0) (hr : s.accR = 0) : Inv s := by
  obtain ⟨⟨a1, a2, a3⟩, ⟨b1, b2⟩, ⟨c1, c2, c3, c4, c5⟩, ⟨d1, d2, d3, d4⟩, ⟨e1, e2, e3⟩⟩ := h
  have h0 : ∀ W, SignedRange W 0 := fun W => by
    have : (0 : Int) < 2 ^ (W - 1) := by positivity
    constructor <;> omega
  exact ⟨a1, a2, a3, b1, b2, hl ▸ h0 _, hr ▸ h0 _, c1, c2, c3, c4, c5, d1, d2, d3, d4, e1, e2, e3⟩

/-! ### Ill-formed terms are refused -/

theorem test_wf_accepts : cfg1.wf = true ∧ cfg2.wf = true ∧ cfg3.wf = true ∧ cfg4.wf = true := by decide
theorem test_wf_no_voice : Cfg.wf { cfg1 with voices := [], patterns := [[]] } = false := by decide
theorem test_wf_bar_len : Cfg.wf { cfg1 with barLen := 0, patterns := [[[]]] } = false := by decide
theorem test_wf_no_bar : Cfg.wf { cfg1 with song := [] } = false := by decide
theorem test_wf_no_pattern : Cfg.constantsOk { cfg1 with patterns := [] } = false := by decide
theorem test_wf_no_sample : Cfg.constantsOk { cfg1 with samples := [] } = false := by decide
theorem test_wf_samples_per_tick : Cfg.wf { cfg1 with samplesPerTick := 0 } = false := by decide
theorem test_wf_pan_max : Cfg.wf { cfg1 with panMax := 0, voices := [{ pan := 0, volume := 1, sample := 0 }] } = false := by
  decide
theorem test_wf_acc_w : Cfg.wf { cfg1 with accW := 30 } = false ∧ Cfg.wf { cfg1 with accW := 31 } = true := by decide
theorem test_wf_slots : Cfg.wf { cfg1 with nSlots := 2 } = false ∧ Cfg.wf { cfg1 with nSlots := 3 } = true := by decide
theorem test_wf_buffer_size : Cfg.wf { cfg1 with bufferSize := 0 } = false := by decide
theorem test_wf_table_length : Cfg.wf { cfg1 with samples := [[0]] } = false := by decide
theorem test_wf_voice_pan : Cfg.wf { cfg1 with voices := [{ pan := 33, volume := 1, sample := 0 }] } = false := by decide
theorem test_wf_voice_volume : Cfg.wf { cfg1 with voices := [{ pan := 1, volume := 256, sample := 0 }] } = false := by decide
theorem test_wf_voice_sample : Cfg.wf { cfg1 with voices := [{ pan := 1, volume := 1, sample := 1 }] } = false := by decide
theorem test_wf_grid_rows : Cfg.wf { cfg1 with patterns := [[[0x35, 0x20], [0x20, 0x20]]] } = false := by decide
theorem test_wf_grid_row_length : Cfg.wf { cfg1 with patterns := [[[0x35]]] } = false := by decide
theorem test_wf_grid_symbol : Cfg.wf { cfg1 with patterns := [[[0x30, 0x20]]] } = false
    ∧ Cfg.wf { cfg1 with patterns := [[[0x3A, 0x20]]] } = false := by decide
theorem test_wf_song : Cfg.wf { cfg1 with song := [1] } = false := by decide

/-- Every instruction with a voice operand refuses the first number that names no voice. -/
theorem test_wf_voice_operand : ∀ i ∈ [Instr.nohit 2, .hit1 2, .hit2 2, .hit3 2, .hit4 2, .hit5 2, .hit6 2, .hit7 2,
    .hit8 2, .hit9 2, .vfetch 2, .vstep 2, .gain 2, .panmul 2, .mixv 2], i.wf 2 = false ∧ i.wf 3 = true := by decide

/-! ### Words written out from R91 and R100 -/

theorem test_decode_symbols : decode (.sym 2 0x20) = .ok (.nohit 2) ∧ decode (.sym 2 0x31) = .ok (.hit1 2)
    ∧ decode (.sym 2 0x32) = .ok (.hit2 2) ∧ decode (.sym 2 0x33) = .ok (.hit3 2) ∧ decode (.sym 2 0x34) = .ok (.hit4 2)
    ∧ decode (.sym 2 0x35) = .ok (.hit5 2) ∧ decode (.sym 2 0x36) = .ok (.hit6 2) ∧ decode (.sym 2 0x37) = .ok (.hit7 2)
    ∧ decode (.sym 2 0x38) = .ok (.hit8 2) ∧ decode (.sym 2 0x39) = .ok (.hit9 2) := by decide
theorem test_decode_reset : decode (.op 0x0000) = .ok .reset := by decide
theorem test_decode_timing : decode (.op 0x0001) = .ok .tickq ∧ decode (.op 0x0002) = .ok .advance := by decide
theorem test_decode_playback : decode (.op 0x0003) = .ok .trigscan ∧ decode (.op 0x0104) = .ok (.vfetch 1)
    ∧ decode (.op 0xFF05) = .ok (.vstep 255) := by decide
theorem test_decode_gain : decode (.op 0x0206) = .ok (.gain 2) ∧ decode (.op 0x0307) = .ok (.panmul 3) := by decide
theorem test_decode_mixer : decode (.op 0x0008) = .ok .accclr ∧ decode (.op 0x0009) = .ok .accadd
    ∧ decode (.op 0x000A) = .ok .pack ∧ decode (.op 0x040B) = .ok (.mixv 4) ∧ decode (.op 0x000C) = .ok .genframe := by
  decide
theorem test_decode_ring : decode (.op 0x000D) = .ok .fillchk ∧ decode (.op 0x000E) = .ok .fillfrm
    ∧ decode (.op 0x000F) = .ok .fill ∧ decode (.op 0x0010) = .ok .complete ∧ decode (.op 0x0011) = .ok .devread
    ∧ decode (.op 0x0012) = .ok .prefill ∧ decode (.op 0x0013) = .ok .start := by decide
/-- R101: the codes around the alphabet. -/
theorem test_decode_reserved_symbols : ∀ code ∈ [0x00#8, 0x1F#8, 0x21#8, 0x30#8, 0x3A#8, 0xFF#8],
    decode (.sym 0 code) = .error .reservedSymbol := by decide
/-- R102: bits [7:5] at both ends, `op` at both ends, a voice where none belongs. -/
theorem test_decode_reserved_words : decode (.op 0x0024) = .error .zeroFieldNotZero
    ∧ decode (.op 0x0080) = .error .zeroFieldNotZero ∧ decode (.op 0x0014) = .error .reservedOp
    ∧ decode (.op 0xFF1F) = .error .reservedOp ∧ decode (.op 0x0100) = .error .strayVoice
    ∧ decode (.op 0x0113) = .error .strayVoice := by decide
/-- The table's own numbering, one row of each width. -/
theorem test_decode_table_word : decodeTableWord 8 0x39 = some (.hit9 0) ∧ decodeTableWord 16 0x0013 = some .start
    ∧ decodeTableWord 16 0x050B = some (.mixv 5) ∧ decodeTableWord 8 0x3A = none := by decide

/-! ### Timing (vectors 2.1) -/

/-- Configuration A of 2.1, at (2, 71, 947) and at the end of the loop. -/
def cfgA : Cfg := { cfg1 with barLen := 72, samplesPerTick := 948, song := [0, 0, 0, 0] }

theorem test_advance_second_carry : (Timing.advance cfgA { bar := 0, tickOfBar := 71, sampleOfTick := 947 }) =
    { bar := 1, tickOfBar := 0, sampleOfTick := 0 } := by decide
theorem test_advance_full_wrap : after .advance
    { fresh cfgA with timing := { bar := 3, tickOfBar := 71, sampleOfTick := 947 } } State.timing
    = some { bar := 0, tickOfBar := 0, sampleOfTick := 0 } := by decide
theorem test_tickq : after .tickq (fresh cfg1) (fun t => t.tmp.tick) = some true
    ∧ after .tickq { fresh cfg1 with timing := { bar := 0, tickOfBar := 1, sampleOfTick := 1 } } (fun t => t.tmp.tick)
      = some false := by decide
/-- The R8 row of 2.1. -/
theorem test_samples_per_tick : [8000, 11025, 22050, 32000, 44100, 48000, 96000].map
    (fun rate => samplesPerTickOf rate 155 4 72) = [172, 237, 474, 688, 948, 1032, 2064] := by decide

/-! ### Voices (vectors 2.2) -/

/-- P2 with voice 0 at offset 7 and emphasis 96. -/
def hitState : State := { fresh cfg2 with voices := [voiceAt cfg2 7 96, voiceAt cfg2 0 0] }

theorem test_hits : [Instr.nohit 0, .hit1 0, .hit2 0, .hit3 0, .hit4 0, .hit5 0, .hit6 0, .hit7 0, .hit8 0, .hit9 0].map
    (fun i => after i hitState fun t => t.voices.map fun x => (x.pos, x.emph))
    = [some [(7, 96), (0, 0)], some [(1, 0), (0, 0)], some [(1, 12), (0, 0)], some [(1, 24), (0, 0)],
      some [(1, 36), (0, 0)], some [(1, 48), (0, 0)], some [(1, 60), (0, 0)], some [(1, 72), (0, 0)],
      some [(1, 84), (0, 0)], some [(1, 96), (0, 0)]] := by decide
theorem test_trigscan : after .trigscan { fresh cfg2 with
      timing := { bar := 1, tickOfBar := 0, sampleOfTick := 0 }, voices := [voiceAt cfg2 3 0, voiceAt cfg2 0 0] }
    (fun t => t.voices.map fun x => (x.pos, x.emph)) = some [(3, 0), (1, 96)] := by decide
theorem test_vfetch : [0, 1, 2, 3].map (fun p => after (.vfetch 0) { fresh cfg1 with voices := [voiceAt cfg1 p 0] }
    fun t => t.tmp.elem) = [some 0, some 1000, some (-2000), some 3000] := by decide
theorem test_vstep : [0, 1, 2, 3].map (fun p => after (.vstep 0) { fresh cfg1 with voices := [voiceAt cfg1 p 0] }
    fun t => t.voices.map Voice.pos) = [some [0], some [2], some [3], some [0]] := by decide

/-! ### Gain and pan (vectors 2.3) -/

theorem test_gain : after (.gain 0) { fresh cfg1 with voices := [voiceAt cfg1 5 48] } (fun t => t.tmp.gain) = some 148
    ∧ after (.gain 0) { fresh cfg2 with voices := [voiceAt cfg2 0 96] } (fun t => t.tmp.gain) = some 351 := by decide
/-- A voice with a pan weight, a gain and an element ready for PANMUL. -/
def panState (pan g : Nat) (e : Int) : State :=
  { fresh cfg1 with
    voices := [{ voiceAt cfg1 1 0 with pan := pan }]
    tmp := { Transient.initial with gain := g, elem := e } }
theorem test_panmul_centre : after (.panmul 0) (panState 16 148 (-2000)) (fun t => (t.tmp.prodL, t.tmp.prodR))
    = some (-4736000, -4736000) := by decide
theorem test_panmul_sides : after (.panmul 0) (panState 0 351 (-32768)) (fun t => (t.tmp.prodL, t.tmp.prodR))
    = some (0, -368050176) ∧ after (.panmul 0) (panState 31 200 1) (fun t => (t.tmp.prodL, t.tmp.prodR))
    = some (6200, 200) := by decide

/-! ### The mixer (vectors 2.4, programs P1 to P3) -/

theorem test_accclr : after .accclr { fresh cfg1 with accL := 5, accR := -7 } (fun t => (t.accL, t.accR)) = some (0, 0) := by
  decide
theorem test_accadd : after .accadd { fresh cfg1 with
      accL := 133693440, accR := 2 ^ 31 - 1, tmp := { Transient.initial with prodL := -66846720, prodR := 1 } }
    (fun t => (t.accL, t.accR)) = some (66846720, -2 ^ 31) := by decide
theorem test_pack : after .pack { fresh cfg1 with accL := 2368000, accR := -4736000 } (fun t => t.tmp.frame)
    = some 0x0048FF6F#32 := by decide
theorem test_pack_low_high : after .pack { fresh { cfg1 with leftHigh := false } with accL := 133693440, accR := 134213632 }
    (fun t => t.tmp.frame) = some 0x0FFF0FF0#32 := by decide
/-- The table of R187. -/
theorem test_channel : [32767, 32768, -1, -32768, -32769, 1073741823, 1073741824, -1073741824, -1073741825,
    2147483647].map (channel cfg1)
    = [0x0000, 0x0001, 0xFFFF, 0xFFFF, 0xFFFE, 0x7FFF, 0x8000, 0x8000, 0x7FFF, 0xFFFF] := by decide
theorem test_mixv : after (.mixv 0) { fresh cfg1 with voices := [voiceAt cfg1 1 48] }
    (fun t => (t.voices.map Voice.pos, t.accL, t.accR)) = some ([2], 2368000, 2368000) := by decide
theorem test_mixv_invalid : after (.mixv 0) { fresh cfg1 with voices := [{ voiceAt cfg1 1 48 with sample := 1 }] }
    (fun t => (t.voices.map Voice.pos, t.accL, t.accR)) = some ([1], 0, 0) := by decide
/-- P1, frame 0. -/
theorem test_genframe_first : after .genframe (fresh cfg1) (fun t => (t.tmp.frame, t.voices.map Voice.pos, t.timing))
    = some (0x00480048#32, [2], (fresh cfg1).timing) := by decide
/-- P2, frame 2, and P3, frame 0. -/
theorem test_genframe_overload : after .genframe { fresh cfg2 with
      timing := { bar := 0, tickOfBar := 1, sampleOfTick := 0 }
      voices := [voiceAt cfg2 3 96, { pan := 0, volume := 128, sample := 1, pos := 0, emph := 0 }] }
    (fun t => t.tmp.frame) = some 0x0FF00FFF#32
    ∧ after .genframe (fresh cfg3) (fun t => t.tmp.frame) = some 0x073D0000#32 := by decide

/-! ### The ring (program P4) -/

theorem test_fillchk : after .fillchk booted4 (fun t => (t.fillState, t.frameIdx)) = some (.check, 0)
    ∧ after .fillchk free4 (fun t => (t.fillState, t.frameIdx)) = some (.writing, 0) := by decide
/-- Trace K, step 9. -/
theorem test_fillfrm_last : after .fillfrm writing4 (fun t => (t.ring, t.filling, t.fillState, t.frameIdx, t.timing.sampleOfTick))
    = some ([(0, nn 7), (1, nn 8), (2, nn 3), (3, nn 4), (4, nn 5), (5, nn 6)], 1, .check, 0, 8) := by decide
/-- The slot index wraps (2.6). -/
theorem test_fillfrm_wrap : after .fillfrm { writing4 with filling := 2 } (fun t => (t.ring.read 5, t.filling))
    = some (some (nn 8), 0) := by decide
theorem test_fill : after .fill booted4 (fun t => (t.ring, t.filling)) = some (booted4.ring, 0)
    ∧ after .fill free4 (fun t => ((t.ring.read 0, t.ring.read 1, t.ring.read 2), t.filling, t.fillState))
      = some ((some (nn 7), some (nn 8), some (nn 3)), 1, .check) := by decide
theorem test_complete : after .complete { pending4 with playing := 2 } (fun t => (t.playing, t.devRd)) = some (0, 0) := by
  decide
theorem test_devread : after .devread { free4 with devRd := 1 } (fun t => (t.out, t.devRd)) = some ([nn 4], 2) := by decide
/-- The other reading of conflict C1 streams the slot before `playing`. -/
theorem test_devread_switch : after .devread { free4 with cfg := { cfg4 with streamBeforeAdvance := true } } State.out
    = some [nn 1] := by decide
/-- Trace K, step 1. -/
theorem test_prefill : after .prefill (fresh cfg4)
    (fun t => (t.ring, t.filling, t.playing, t.timing.sampleOfTick, t.voices.map Voice.pos))
    = some (prefilled4.ring, 0, 2, 6, [7]) := by decide
theorem test_start : after .start prefilled4 (fun t => (t.playing, t.devActive, t.devRd)) = some (0, true, 0) := by decide
/-- P5: a second RESET in the middle of a fill. -/
theorem test_reset_fill_engine : after .reset writing4
    (fun t => (t.timing, t.filling, t.fillState, t.frameIdx, t.voices.map Voice.pos))
    = some ({ bar := 0, tickOfBar := 0, sampleOfTick := 0 }, 0, .check, 0, [0]) := by decide
theorem test_reset_device : after .reset { pending4 with playing := 1 }
    (fun t => (t.playing, t.devActive, t.devRd, t.ring)) = some (2, false, 0, []) := by decide
/-- The ports of R48. -/
theorem test_ports : after .fillfrm writing4 (ringWritePort .fillfrm writing4) = some [(0, 1, nn 8)]
    ∧ after .complete pending4 (streamStart .complete pending4) = some [1]
    ∧ after .start prefilled4 (streamStart .start prefilled4) = some [0]
    ∧ ringReadPort free4 = some (1, 0) ∧ ringReadPort prefilled4 = none
    ∧ (pulse free4 .rst).cmds = [.op 0x0000] ∧ ringReadData free4 = some (nn 3)
    ∧ ringReadData pending4 = none := by decide
/-- P4 with a slot free and three device steps, then one, to fall into the next FILL (trace A's first steps). -/
def gapped4 : State := { free4 with gaps := [3, 1, 5] }
/-- The interrupted FILL fills its slot, the device streams on, and the re-arm pulse of its COMPLETE is seen. -/
theorem test_fill_interrupted : after .fill gapped4 (fun t => (t.ring.read 0, t.ring.read 1, t.filling, t.fillState))
      = some (some (nn 7), some (nn 8), 1, .check)
    ∧ after .fill gapped4 (fun t => (t.playing, t.devRd, t.out, t.gaps)) = some (2, 1, [nn 3, nn 4, nn 5], [5])
    ∧ after .fill gapped4 (streamStart .fill gapped4) = some [2] := by decide
/-- The race inside a FILL (trace B): seven device steps fall before its last frame, and the device reads the stale word. -/
theorem test_fill_race : after .fill { free4 with gaps := [0, 8] } (fun t => (t.playing, t.filling, t.out))
    = some (0, 1, [nn 3, nn 4, nn 5, nn 6, nn 7, nn 2]) := by decide
/-- A FILL that passes its check writes its slot word by word, one that does not writes nothing, and PREFILL writes the
whole ring. -/
theorem test_ring_write_port : after .fill free4 (ringWritePort .fill free4) = some [(0, 0, nn 7), (0, 1, nn 8)]
    ∧ after .fill booted4 (ringWritePort .fill booted4) = some []
    ∧ after .prefill (fresh cfg4) (ringWritePort .prefill (fresh cfg4))
      = some [(0, 0, nn 1), (0, 1, nn 2), (1, 0, nn 3), (1, 1, nn 4), (2, 0, nn 5), (2, 1, nn 6)] := by decide
theorem test_rom_ports : songPort scan2 = (1, some 1) ∧ patternPort scan2 1 1 = ((1, 1, 0), some 0x39)
    ∧ samplePort cfg1 (voiceAt cfg1 3 0) = ((0, 3), some 0x0BB8) := by decide
/-- P1's table is silent at 0; a table that begins with 7 is not (2.2). -/
theorem test_silent_at_zero : SilentAtZero cfg1 ∧ ¬ SilentAtZero { cfg1 with samples := [[7, 5]] } := by
  unfold SilentAtZero; decide
theorem test_ring_order : (Ring.write [(1, nn 1), (4, nn 2)] 3 (nn 3)) = [(1, nn 1), (3, nn 3), (4, nn 2)]
    ∧ (Ring.write [(1, nn 1), (4, nn 2)] 4 (nn 3)) = [(1, nn 1), (4, nn 3)] := by decide

/-! ### The statements' hypotheses are met

One theorem for each statement that has hypotheses: a concrete state and operands that meet them together, at the boundary
values of each clause. -/

theorem next_of_after {i : Instr} {s : State} (h : (after i s fun _ => ()).isSome = true) : ∃ t, exec i s = .next t := by
  unfold after at h
  split at h
  · exact ⟨_, by assumption⟩
  · cases h

theorem inv_fresh4 : Inv (fresh cfg4) := inv_of_checks (by decide) rfl rfl
theorem inv_prefilled4 : Inv prefilled4 := inv_of_checks (by decide) rfl rfl
theorem inv_booted4 : Inv booted4 := inv_of_checks (by decide) rfl rfl
theorem inv_pending4 : Inv pending4 := inv_of_checks (by decide) rfl rfl
theorem inv_free4 : Inv free4 := inv_of_checks (by decide) rfl rfl
theorem inv_writing4 : Inv writing4 := inv_of_checks (by decide) rfl rfl
theorem inv_fresh2 : Inv (fresh cfg2) := inv_of_checks (by decide) rfl rfl

/-- P1 right after a hit. -/
def hit1 : State := { fresh cfg1 with voices := [voiceAt cfg1 1 48] }
theorem inv_hit1 : Inv hit1 := inv_of_checks (by decide) rfl rfl

/-- P2 with voice 1 blank at every tick (S8.4). -/
def cfg2Blank : Cfg := { cfg2 with patterns := [[[0x39, 0x31], [0x20, 0x20]], [[0x20, 0x20], [0x20, 0x20]]] }
theorem inv_blank : Inv (fresh cfg2Blank) := inv_of_checks (by decide) rfl rfl

/-- Bits [7:5] at both ends, `op` at both ends of its reserved range, a stray voice, and words that decode at the ends of
each alternative of the last clause. -/
theorem witness_ReservedCommandsRejected : (∀ w ∈ [0x0020#16, 0x00FF#16], w.toNat / 32 % 8 ≠ 0)
    ∧ (∀ w ∈ [0x0014#16, 0xFF1F#16], w.toNat / 32 % 8 = 0 ∧ 0x14 ≤ w.toNat % 32)
    ∧ (∀ w ∈ [0x0103#16, 0x0108#16, 0xFF13#16], w.toNat / 32 % 8 = 0 ∧ w.toNat % 32 < 0x14 ∧ w.toNat / 256 ≠ 0
      ∧ ¬ (0x04 ≤ w.toNat % 32 ∧ w.toNat % 32 ≤ 0x07) ∧ w.toNat % 32 ≠ 0x0B)
    ∧ (∀ w ∈ [0x0000#16, 0x0013#16, 0xFF04#16, 0xFF07#16, 0xFF0B#16], w.toNat / 32 % 8 = 0 ∧ w.toNat % 32 < 0x14
      ∧ (w.toNat / 256 = 0 ∨ (0x04 ≤ w.toNat % 32 ∧ w.toNat % 32 ≤ 0x07) ∨ w.toNat % 32 = 0x0B)) := by simp

theorem witness_StepRunsScheduledCommand :
    (fresh cfg2).cfg.wf = true ∧ { fresh cfg2 with cmds := [.sym 1 0x39, .op 0x0002] }.cmds = .sym 1 0x39 :: [.op 0x0002]
    ∧ decode (.sym 1 0x39) = .ok (.hit9 1) ∧ Instr.wf cfg2.nVoices (.hit9 1) = true := by decide

theorem witness_StepRunsTableWord : (fresh cfg2).cfg.wf = true ∧ decodeTableWord 16 0x010B = some (.mixv 1)
    ∧ Instr.wf (fresh cfg2).cfg.nVoices (.mixv 1) = true := by decide

theorem witness_StepWithoutSchedule :
    ((fresh cfg4).cfg.wf = true ∧ (fresh cfg4).cmds = [] ∧ (fresh cfg4).prefilled = false)
    ∧ (prefilled4.cfg.wf = true ∧ prefilled4.cmds = [] ∧ prefilled4.prefilled = true ∧ prefilled4.devActive = false)
    ∧ (booted4.cfg.wf = true ∧ booted4.cmds = [] ∧ booted4.prefilled = true ∧ booted4.devActive = true) := by decide

theorem witness_StepRefusesIllFormed : (fresh { cfg1 with song := [1] }).cfg.wf = false
    ∧ ((fresh cfg1).cfg.wf = true ∧ { fresh cfg1 with cmds := [.sym 0 0x30] }.cmds = .sym 0 0x30 :: []
      ∧ decode (.sym 0 0x30) = .error .reservedSymbol)
    ∧ ({ fresh cfg1 with cmds := [.op 0x010B] }.cmds = .op 0x010B :: [] ∧ decode (.op 0x010B) = .ok (.mixv 1)
      ∧ Instr.wf (fresh cfg1).cfg.nVoices (.mixv 1) = false) := by decide

theorem witness_HitsRestartVoice : hitState.voices[0]? = some (voiceAt cfg2 7 96)
    ∧ hitState.voices[1]? = some (voiceAt cfg2 0 0) := by decide

theorem witness_OutOfRangeStops :
    (hitState.voices.length ≤ 2 ∧ hitState.voices.length ≤ (2 : VoiceField).toNat)
    ∧ ({ hit1 with voices := [voiceAt cfg1 4 0] }.voices[(0 : VoiceField).toNat]? = some (voiceAt cfg1 4 0)
      ∧ ∀ table ∈ cfg1.samples[(voiceAt cfg1 4 0).sample]?, table.length ≤ (voiceAt cfg1 4 0).pos)
    ∧ (∀ p ∈ [0, 1], { hit1 with voices := [{ voiceAt cfg1 p 0 with sample := 1 }] }.voices[(0 : VoiceField).toNat]?
        = some { voiceAt cfg1 p 0 with sample := 1 } ∧ cfg1.samples.length ≤ 1)
    ∧ { hit1 with timing := { bar := 1, tickOfBar := 0, sampleOfTick := 0 } }.cfg.loopBars ≤ 1
    ∧ (1 ≤ cfg1.nVoices ∧ symbolAt (fresh { cfg1 with patterns := [[[0x30, 0x20]]] }) 0 = some 0x30
      ∧ legalSymbol 0x30 = false)
    ∧ (booted4.cfg.streamBeforeAdvance = false ∧ booted4.devActive = true ∧ booted4.devRd < booted4.cfg.bufferSize
      ∧ booted4.cfg.nSlots ≤ { booted4 with playing := 3 }.playing) := by decide

/-- The three wraps of R121 and no wrap. -/
theorem witness_AdvanceCarries : (∀ t ∈ [Timing.mk 0 0 946, Timing.mk 0 0 947, Timing.mk 0 71 947, Timing.mk 3 71 947],
    t.bar < cfgA.loopBars ∧ t.tickOfBar < cfgA.barLen ∧ t.sampleOfTick < cfgA.samplesPerTick)
    ∧ (after .advance { fresh cfgA with timing := Timing.mk 3 71 947 } fun _ => ()).isSome = true := by decide

theorem witness_AdvanceAddsOneToPosition : (∀ t ∈ [Timing.mk 0 0 0, Timing.mk 3 71 947],
    t.bar < cfgA.loopBars ∧ t.tickOfBar < cfgA.barLen ∧ t.sampleOfTick < cfgA.samplesPerTick)
    ∧ positionNumber cfgA (Timing.mk 3 71 947) = 273023 ∧ 273023 < period cfgA ∧ 0 < period cfgA
    ∧ (after .advance { fresh cfgA with timing := Timing.mk 3 71 947 } fun _ => ()).isSome = true := by decide

theorem witness_AdvanceIsModularArithmetic : 1 ≤ (fresh cfg1).cfg.samplesPerTick ∧ 1 ≤ (fresh cfg1).cfg.barLen
    ∧ 1 ≤ (fresh cfg1).cfg.loopBars ∧ (fresh cfg1).timing = { bar := 0, tickOfBar := 0, sampleOfTick := 0 } := by decide

theorem witness_FramesMovePositionByOne : Inv booted4 ∧ period booted4.cfg = 16 := ⟨inv_booted4, by decide⟩

theorem witness_TrigscanScansColumn : scan2.cfg.wf = true ∧ TimingInRange scan2.cfg scan2.timing
    ∧ scan2.voices.length = scan2.cfg.nVoices := by unfold TimingInRange; decide

theorem witness_TrigscanIsItsSymbols : [Instr.nohit 0, .hit9 1].length = scan2.cfg.nVoices
    ∧ (symbolAt scan2 0 = some 0x20 ∧ decode (.sym 0 0x20) = .ok (.nohit 0))
    ∧ (symbolAt scan2 1 = some 0x39 ∧ decode (.sym 1 0x39) = .ok (.hit9 1)) := by decide

/-- Idle, and at the last element of the table. -/
theorem witness_VfetchReadsElement : ∀ p ∈ [(0, 0x0000#16), (3, 0x0BB8#16)],
    { hit1 with voices := [voiceAt cfg1 p.1 0] }.voices[(0 : VoiceField).toNat]? = some (voiceAt cfg1 p.1 0)
    ∧ cfg1.samples[(voiceAt cfg1 p.1 0).sample]? = some [0x0000, 0x03E8, 0xF830, 0x0BB8]
    ∧ [0x0000#16, 0x03E8#16, 0xF830#16, 0x0BB8#16][p.1]? = some p.2 := by decide

/-- Idle, playing, and at the last element. -/
theorem witness_VstepAdvancesOffset : ∀ p ∈ [0, 1, 3],
    { hit1 with voices := [voiceAt cfg1 p 0] }.voices[(0 : VoiceField).toNat]? = some (voiceAt cfg1 p 0)
    ∧ cfg1.samples[(voiceAt cfg1 p 0).sample]? = some [0x0000, 0x03E8, 0xF830, 0x0BB8] := by decide

/-- For j = LEN − 2, the last element, and j = LEN − 1, idle. -/
theorem witness_HitPlaysItsTable : Inv hit1 ∧ hit1.voices[(0 : VoiceField).toNat]? = some (voiceAt cfg1 1 48)
    ∧ (voiceAt cfg1 1 48).pos = 1
    ∧ hit1.cfg.samples[(voiceAt cfg1 1 48).sample]? = some [0x0000, 0x03E8, 0xF830, 0x0BB8] :=
  ⟨inv_hit1, by decide, by decide, by decide⟩

theorem witness_BlankVoiceStaysSilent : Inv (fresh cfg2Blank)
    ∧ (fresh cfg2Blank).voices[1]? = some { pan := 0, volume := 128, sample := 1, pos := 0, emph := 0 }
    ∧ (∀ p ∈ cfg2Blank.song, ∀ grid ∈ cfg2Blank.patterns[p]?, ∀ row ∈ grid[1]?, ∀ code ∈ row, code = 0x20)
    ∧ isSymbol .genframe = false ∧ ∃ t, exec .genframe (fresh cfg2Blank) = .next t :=
  ⟨inv_blank, by decide, by decide, rfl, next_of_after (by decide)⟩

theorem witness_GainAddsEmphasis : Inv hit1 ∧ hit1.voices[(0 : VoiceField).toNat]? = some (voiceAt cfg1 1 48) :=
  ⟨inv_hit1, by decide⟩

/-- Hard left and hard right. -/
theorem witness_PanmulWeighsChannels : ∀ p ∈ [0, 32],
    (panState p 148 1000).voices[(0 : VoiceField).toNat]? = some { voiceAt cfg1 1 0 with pan := p } := by decide

theorem witness_ProductsBounded : Inv writing4 ∧ writing4.voices[(0 : VoiceField).toNat]? = some (voiceAt cfg4 8 0) :=
  ⟨inv_writing4, by decide⟩

theorem witness_AccaddWraps : 1 ≤ (fresh cfg1).cfg.accW ∧ 1 ≤ (fresh { cfg1 with accW := 1 }).cfg.accW := by decide

/-- The narrowest accumulator, holding the wrapped sum of P3. -/
theorem witness_WidthIndependence : cfg1.outShift + 16 ≤ { cfg1 with accW := 31 }.accW
    ∧ { fresh { cfg1 with accW := 31 } with accL := 60749 * 1 }.accL = wrapW 31 (60749 + 2 ^ 31)
    ∧ (fresh { cfg1 with accW := 31 }).accR = wrapW 31 0 := by decide

/-- The last sum in range, on the left, and the first outside it, on the right (R187's table). -/
theorem witness_OverloadWrapsOutsideRange : cfg1.outShift + 16 ≤ (fresh cfg1).cfg.accW
    ∧ { fresh cfg1 with accL := 2 ^ 30 - 1, accR := 2 ^ 30 }.accL = wrapW (fresh cfg1).cfg.accW (2 ^ 30 - 1)
    ∧ { fresh cfg1 with accL := 2 ^ 30 - 1, accR := 2 ^ 30 }.accR = wrapW (fresh cfg1).cfg.accW (2 ^ 30) := by decide

/-- A valid voice idle and at its last element, and an invalid one. -/
theorem witness_MixvAccumulatesVoice : (∀ p ∈ [(0, 0x0000#16), (3, 0x0BB8#16)],
    { hit1 with voices := [voiceAt cfg1 p.1 0] }.voices[(0 : VoiceField).toNat]? = some (voiceAt cfg1 p.1 0)
    ∧ cfg1.samples[(voiceAt cfg1 p.1 0).sample]? = some [0x0000, 0x03E8, 0xF830, 0x0BB8]
    ∧ [0x0000#16, 0x03E8#16, 0xF830#16, 0x0BB8#16][(voiceAt cfg1 p.1 0).pos]? = some p.2)
    ∧ cfg1.samples.length ≤ { voiceAt cfg1 1 48 with sample := 1 }.sample := by decide

/-- A frame at a tick start and one inside a tick. -/
theorem witness_GenframeReturnsFrame : Inv (fresh cfg2) ∧ Inv writing4 := ⟨inv_fresh2, inv_writing4⟩

theorem witness_GenframeIsItsOperations : (fresh cfg3).cfg.nVoices ≤ 256
    ∧ (fresh { cfg3 with voices := List.replicate 256 { pan := 0, volume := 0, sample := 0 } }).cfg.nVoices ≤ 256 := by
  constructor
  · decide
  · exact (List.length_replicate ..).le

theorem witness_GenframeReadsOnlyItsInputs : booted4.cfg = pending4.cfg ∧ booted4.timing = pending4.timing
    ∧ booted4.voices = pending4.voices ∧ ∃ t, exec .genframe booted4 = .next t :=
  ⟨rfl, rfl, rfl, next_of_after (by decide)⟩

/-- P4 inside a tick with its voice idle. -/
def idle4 : State := { booted4 with voices := [voiceAt cfg4 0 0] }

theorem witness_SilenceIsZeroWord : Inv idle4 ∧ (∀ x ∈ voicesAtFrame idle4, x.pos = 0)
    ∧ (∀ x ∈ voicesAtFrame idle4, ∀ table ∈ idle4.cfg.samples[x.sample]?, table[0]? = some 0) :=
  ⟨inv_of_checks (by decide) rfl rfl, by decide, by decide⟩

theorem witness_VoiceOrderIrrelevant : Inv (fresh cfg2) ∧ [(0 : VoiceField), 1].Nodup
    ∧ (∀ v ∈ [(0 : VoiceField), 1], v.toNat < (fresh cfg2).cfg.nVoices) ∧ [(0 : VoiceField), 1].Perm [1, 0] :=
  ⟨inv_fresh2, by decide, by decide, by decide⟩

/-- A full ring and one with a slot free. -/
theorem witness_FillchkChecksRing : (booted4.prefilled = true ∧ booted4.fillState = .check ∧ booted4.filling = booted4.playing)
    ∧ (free4.prefilled = true ∧ free4.fillState = .check ∧ free4.filling ≠ free4.playing) := by decide

/-- The first and the last frame of a slot. -/
theorem witness_FillfrmWritesOneFrame : (Inv { free4 with fillState := .writing } ∧ Inv writing4)
    ∧ writing4.fillState = .writing ∧ writing4.frameIdx + 1 = writing4.cfg.bufferSize :=
  ⟨⟨inv_of_checks (by decide) rfl rfl, inv_writing4⟩, rfl, rfl⟩

theorem witness_FillWritesOneSlot : (Inv booted4 ∧ booted4.prefilled = true ∧ booted4.fillState = .check
      ∧ booted4.filling = booted4.playing)
    ∧ (Inv free4 ∧ free4.prefilled = true ∧ free4.fillState = .check ∧ free4.filling ≠ free4.playing) :=
  ⟨⟨inv_booted4, rfl, rfl, rfl⟩, inv_free4, rfl, rfl, by decide⟩

/-- Device steps between the parts, a COMPLETE among them. -/
theorem witness_FillWritesOneSlot_interrupted :
    [[Instr.devread, .devread, .complete], [.devread]].length = free4.cfg.bufferSize
    ∧ (∀ d ∈ [[Instr.devread, .devread, .complete], [.devread]], ∀ i ∈ d, i = .devread ∨ i = .complete)
    ∧ ∃ t, runInstrs (.fillchk :: [[Instr.devread, .devread, .complete], [.devread]].flatMap fun d => d ++ [.fillfrm]) free4
      = .next t := ⟨by decide, by decide, _, rfl⟩

theorem witness_PrefillWritesEverySlot : Inv (fresh cfg4) ∧ (fresh cfg4).prefilled = false
    ∧ (fresh cfg4).devActive = false := ⟨inv_fresh4, rfl, rfl⟩

theorem witness_StartHandsOverSlot : prefilled4.prefilled = true ∧ prefilled4.devActive = false := by decide

/-- COMPLETE at the last slot, where `playing` wraps. -/
theorem witness_CompleteRearmsDevice : { pending4 with playing := 2 }.devActive = true
    ∧ { pending4 with playing := 2 }.devRd = pending4.cfg.bufferSize := by decide

/-- The first and the last word of a slot, under both settings of the switch. -/
theorem witness_DevreadEmitsWord : ∀ k ∈ [0, 1], ∀ b ∈ [false, true],
    { free4 with devRd := k, cfg := { cfg4 with streamBeforeAdvance := b } }.devActive = true ∧ k < cfg4.bufferSize
    ∧ free4.playing < cfg4.nSlots
    ∧ (if b then 0 else 1) = (if { cfg4 with streamBeforeAdvance := b }.streamBeforeAdvance
        then (free4.playing + cfg4.nSlots - 1) % cfg4.nSlots else free4.playing) := by decide

theorem witness_StepsStopWhenNotEnabled :
    ((fresh cfg4).prefilled = false ∧ writing4.fillState = .writing ∧ free4.fillState = .check)
    ∧ ((fresh cfg4).devActive = false ∧ booted4.devRd ≠ booted4.cfg.bufferSize ∧ pending4.cfg.bufferSize ≤ pending4.devRd)
    ∧ (prefilled4.prefilled = true ∧ booted4.devActive = true) := by decide

theorem witness_CompletionsDoNotNest : Inv pending4 ∧ (∃ t, exec .complete pending4 = .next t)
    ∧ 0 ≤ pending4.cfg.bufferSize ∧ 2 ≤ pending4.cfg.bufferSize ∧ 1 < pending4.cfg.bufferSize
    ∧ (∀ i ∈ [Instr.fillchk, .devread, .fillfrm, .devread], i = .fillchk ∨ i = .fillfrm ∨ i = .devread)
    ∧ ∃ t u, exec .complete pending4 = .next t ∧ runInstrs [.fillchk, .devread, .fillfrm, .devread] t = .next u :=
  ⟨inv_pending4, next_of_after (by decide), by decide, by decide, by decide, by decide, _, _, rfl, rfl⟩

theorem witness_DeviceStreamsInRingOrder : Inv pending4
    ∧ (∀ i ∈ [Instr.complete, .fillchk, .devread, .fillfrm, .devread, .complete], isRunStep i = true)
    ∧ ∃ t, runInstrs [.complete, .fillchk, .devread, .fillfrm, .devread, .complete] pending4 = .next t :=
  ⟨inv_pending4, by decide, _, rfl⟩

/-- FILL in a run with no gaps to come, and FILL with device steps inside. -/
theorem witness_DeviceStreamsInRingOrder_fill : (Inv pending4 ∧ pending4.gaps = []
      ∧ ∃ t, runInstrs [.complete, .fill, .devread] pending4 = .next t)
    ∧ (Inv gapped4 ∧ ∃ t, exec .fill gapped4 = .next t) :=
  ⟨⟨inv_pending4, rfl, _, rfl⟩, inv_of_checks (by decide) rfl rfl, next_of_after (by decide)⟩

theorem witness_RaceIsReachable : cfg4.wf = true ∧ { cfg4 with bufferSize := 1 }.wf = true := by decide

/-- From slot 1, so that the round passes the end of the ring. -/
theorem witness_StarvedDeviceReplaysRing : Inv free4 ∧ free4.devActive = true ∧ free4.devRd = 0
    ∧ [nn 3, nn 4, nn 5, nn 6, nn 1, nn 2] = (List.range (free4.cfg.nSlots * free4.cfg.bufferSize)).map (fun i =>
      ringWord free4 ((ringIndex free4.cfg (streamSlot free4) 0 + i) % (free4.cfg.nSlots * free4.cfg.bufferSize))) :=
  ⟨inv_free4, rfl, rfl, by decide⟩

/-- Trace K from START to its second COMPLETE, the fill cut in its steps. -/
def traceK : List Instr :=
  [.fillchk, .devread, .devread, .complete, .fillchk, .fillfrm, .fillfrm, .fillchk, .devread, .devread, .complete]

theorem witness_KeptUpRunEmitsGeneratedStream : cfg4.wf = true ∧ cfg4.streamBeforeAdvance = false
    ∧ (∀ i ∈ traceK, isRunStep i = true)
    ∧ ∃ b t, runInstrs bootTrace (State.resetWith cfg4) = .next b ∧ keptUp traceK b = true
      ∧ runInstrs traceK b = .next t :=
  ⟨by decide, by decide, by decide, _, _, rfl, rfl, rfl⟩

theorem witness_BootReachesTable : writing4.cfg.wf = true := by decide

theorem witness_InvHoldsAtResetOfEveryCfg : cfg2.wf = true := by decide

/-- A scheduled FILL, run by the step. -/
theorem witness_StepKeepsInv : Inv { free4 with cmds := [.op 0x000F] }
    ∧ ∃ t, step { free4 with cmds := [.op 0x000F] } = .next t :=
  ⟨inv_of_checks (by decide) rfl rfl, next_of_after (i := .fill) (s := free4) (by decide)⟩

theorem witness_OwnStepNeverStops : (Inv (fresh cfg4) ∧ (fresh cfg4).cmds = []) ∧ (Inv pending4 ∧ pending4.cmds = []) :=
  ⟨⟨inv_fresh4, rfl⟩, inv_pending4, rfl⟩

theorem witness_EnabledInstrCompletes :
    (Inv free4 ∧ ∀ i ∈ [Instr.nohit 0, .hit1 0, .hit9 0, .reset, .tickq, .advance, .trigscan, .vfetch 0, .vstep 0, .gain 0,
      .panmul 0, .accclr, .accadd, .pack, .mixv 0, .genframe, .fillchk, .fill, .devread],
      i.wf free4.cfg.nVoices = true ∧ runnable free4 i = true)
    ∧ (Inv writing4 ∧ runnable writing4 .fillfrm = true) ∧ (Inv pending4 ∧ runnable pending4 .complete = true)
    ∧ (Inv (fresh cfg4) ∧ runnable (fresh cfg4) .prefill = true) ∧ (Inv prefilled4 ∧ runnable prefilled4 .start = true) :=
  ⟨⟨inv_free4, by decide⟩, ⟨inv_writing4, rfl⟩, ⟨inv_pending4, rfl⟩, ⟨inv_fresh4, rfl⟩, inv_prefilled4, rfl⟩

theorem witness_StaticStateNeverChanges : (∃ t, exec .trigscan scan2 = .next t) ∧ Instr.trigscan ≠ .reset :=
  ⟨next_of_after (by decide), by decide⟩

/-- A step of each side, and one outside each list. -/
theorem witness_SingleWriterDiscipline :
    ((∃ t, exec .complete pending4 = .next t) ∧ isDeviceStep .complete = true)
    ∧ ((∃ t, exec .fill free4 = .next t) ∧ isDeviceStep .fill = false ∧ free4.gaps = [] ∧ Instr.fill ≠ .reset
      ∧ Instr.fill ∉ [Instr.prefill, .reset])
    ∧ ((∃ t, exec .genframe free4 = .next t) ∧ Instr.genframe ∉ [Instr.fillfrm, .fill, .prefill, .reset]
      ∧ Instr.genframe ∉ [Instr.fillchk, .fillfrm, .fill, .reset]) :=
  ⟨⟨next_of_after (by decide), rfl⟩, ⟨next_of_after (by decide), rfl, rfl, by decide, by decide⟩, next_of_after (by decide),
    by decide, by decide⟩

theorem witness_DataPathWriters :
    ((∃ t, exec .accadd hit1 = .next t) ∧ Instr.accadd ∈ [Instr.tickq, .advance, .accclr, .accadd, .pack, .fillchk,
      .complete, .devread, .start])
    ∧ (∃ t, exec (.mixv 0) hit1 = .next t)
    ∧ ((∃ t, exec .trigscan scan2 = .next t) ∧ Instr.trigscan ∉ [Instr.accclr, .accadd, .genframe, .fillfrm, .fill,
      .prefill, .reset] ∧ Instr.trigscan ∉ [Instr.advance, .fillfrm, .fill, .prefill, .reset]) :=
  ⟨⟨next_of_after (by decide), by decide⟩, next_of_after (by decide), next_of_after (by decide), by decide, by decide⟩

theorem witness_RegistersFitWidths : Inv writing4 ∧ Inv pending4 := ⟨inv_writing4, inv_pending4⟩

/-- The narrowest width, at its upper bound. -/
theorem witness_WrapAndShiftAreAsDefined : 1 ≤ 1 ∧ (-(2 : Int) ^ (1 - 1) ≤ 0 ∧ (0 : Int) < 2 ^ (1 - 1))
    ∧ (2 : Int) ^ 1 ∣ 0 - 2 := by decide

end Sys2Proof.Tests
end

/-! The obligations about symbols and voice playback: what the hits, NOHIT, TRIGSCAN and VSTEP do to the Voice Bank, and
that they touch nothing else. -/

namespace Sys2Proof.Machine

open Sys2Proof.Safety

/-! ### The instructions as their shared operations -/

theorem exec_nohit (v : Nat) (s : State) : exec (.nohit v) s = .next s := rfl

theorem exec_hit1 (v : Nat) (s : State) : exec (.hit1 v) s = trigger v 0 s := rfl
theorem exec_hit2 (v : Nat) (s : State) : exec (.hit2 v) s = trigger v 1 s := rfl
theorem exec_hit3 (v : Nat) (s : State) : exec (.hit3 v) s = trigger v 2 s := rfl
theorem exec_hit4 (v : Nat) (s : State) : exec (.hit4 v) s = trigger v 3 s := rfl
theorem exec_hit5 (v : Nat) (s : State) : exec (.hit5 v) s = trigger v 4 s := rfl
theorem exec_hit6 (v : Nat) (s : State) : exec (.hit6 v) s = trigger v 5 s := rfl
theorem exec_hit7 (v : Nat) (s : State) : exec (.hit7 v) s = trigger v 6 s := rfl
theorem exec_hit8 (v : Nat) (s : State) : exec (.hit8 v) s = trigger v 7 s := rfl
theorem exec_hit9 (v : Nat) (s : State) : exec (.hit9 v) s = trigger v 8 s := rfl

theorem exec_trigscan (s : State) : exec .trigscan s = trigScan s := rfl

theorem exec_vstep (v : VoiceField) (s : State) : exec (.vstep v) s = voiceStep v.toNat s := rfl

/-! ### What they do to an existing voice -/

/-- A digit symbol leaves the state the spec's `afterHit` describes, whatever the voice was doing (R140). -/
theorem trigger_eq_afterHit {s : State} {v : Nat} {x : Voice} (hx : s.voices[v]? = some x) (level : Nat) :
    trigger v level s = .next (afterHit s v x level) := by
  rw [trigger_of_voice hx]
  rfl

/-- The next voice of R153, its three cases in one offset: idle stays idle, the last element wraps to idle, any other
element moves on. -/
theorem steppedVoice_of_table {c : Cfg} {x : Voice} {table : List Elem} (ht : c.samples[x.sample]? = some table) :
    steppedVoice c x =
      { x with pos := if x.pos = 0 then 0 else if x.pos + 1 = table.length then 0 else x.pos + 1 } := by
  by_cases hidle : x.pos = 0
  · have same : x = { x with pos := 0 } := by rw [← hidle]
    simpa [steppedVoice, ht, hidle] using same
  · simp [steppedVoice, ht, hidle]

/-- VSTEP of a voice with a table replaces the voice by the stepped one and touches nothing else (R153). -/
theorem voiceStep_of_table {s : State} {v : Nat} {x : Voice} {table : List Elem} (hx : s.voices[v]? = some x)
    (ht : s.cfg.samples[x.sample]? = some table) :
    voiceStep v s = .next (s.setVoice v (steppedVoice s.cfg x)) := by
  refine voiceStep_eq_next.mpr ⟨x, hx, ?_⟩
  by_cases hidle : x.pos = 0
  · have hstay : steppedVoice s.cfg x = x := by simp [steppedVoice, ht, hidle]
    exact .inl ⟨hidle, by rw [hstay, State.setVoice_same hx]⟩
  · have hlen : tableLen s.cfg x.sample = some table.length := by simp [tableLen, ht]
    exact .inr ⟨hidle, table.length, hlen, by simp [steppedVoice, ht, hidle]⟩

/-! ### The obligations -/

/-- Settles O16: by the loop over the voices, each of whose turns writes one voice of `scannedVoices` (`trigScan_spec`). -/
theorem trigscanScansColumn : Obligations.TrigscanScansColumn := by
  intro s hwf hrange hcount
  rw [exec_trigscan, trigScan_spec hwf hrange hcount]
  rfl

/-- Settles O8: each hit is the one operation `trigger` at its level. -/
theorem hitsRestartVoice : Obligations.HitsRestartVoice := by
  intro s v x hx
  simp only [exec_hit1, exec_hit2, exec_hit3, exec_hit4, exec_hit5, exec_hit6, exec_hit7, exec_hit8, exec_hit9,
    trigger_eq_afterHit hx, and_self]

/-- Settles O9. -/
theorem nohitChangesNothing : Obligations.NohitChangesNothing :=
  fun s v => exec_nohit v s

/-- Settles O19: by the two cases of `voiceStep`, idle and playing. -/
theorem vstepAdvancesOffset : Obligations.VstepAdvancesOffset := by
  intro s v x table hx ht
  rw [exec_vstep, voiceStep_of_table hx ht, steppedVoice_of_table ht]
  rfl

end Sys2Proof.Machine

/-! The obligation about FILLFRM: one generated frame goes to the word of RING the fill engine stands at, and the fill
micro-state counts it. -/

namespace Sys2Proof.Machine

open Sys2Proof.Safety

/-! ### The instructions as their shared operations -/

theorem exec_fillfrm (s : State) : exec .fillfrm s = fillFrame s := rfl

theorem exec_genframe (s : State) : exec .genframe s = genFrame s := rfl

theorem exec_advance (s : State) : exec .advance s = .next (advance s) := rfl

/-! ### FILLFRM in WRITING -/

/-- Before PREFILL the engine is in CHECK, so WRITING is all FILLFRM waits for (R211, R271). -/
theorem enabled_fillfrm_of_writing {s : State} (h : Inv s) (hw : s.fillState = .writing) :
    enabled s .fillfrm = true := by
  have hpre : s.prefilled = true := by
    by_contra hn
    obtain ⟨-, hcheck⟩ := h.beforePrefill (Bool.eq_false_iff.mpr hn)
    rw [hw] at hcheck
    cases hcheck
  simp [enabled, hpre, hw]

/-- The fill engine always stands at a word of RING (R37, R44). -/
theorem ringInRange_fill {s : State} (h : Inv s) : ringInRange s.cfg s.filling s.frameIdx = true := by
  simp [ringInRange, h.fillingInRange, h.frameInRange]

/-- The two cases of R211 in one state: at the last frame of the slot the engine moves on to CHECK, before it the frame is
counted. -/
theorem countFrame_of_writing {s : State} (hw : s.fillState = .writing) :
    countFrame s = { s with
      filling := if s.frameIdx + 1 = s.cfg.bufferSize then (s.filling + 1) % s.cfg.nSlots else s.filling
      fillState := if s.frameIdx + 1 = s.cfg.bufferSize then .check else .writing
      frameIdx := if s.frameIdx + 1 = s.cfg.bufferSize then 0 else s.frameIdx + 1 } := by
  by_cases hlast : s.frameIdx + 1 = s.cfg.bufferSize
  · simp [countFrame, hlast, nextSlot, State.setFilling, State.setFill]
  · simp [countFrame, hlast, hw, State.setFill]

/-- In WRITING FILLFRM completes: GENFRAME's word is stored at the engine's place, and the advanced state's micro-state
counts the frame (R211). -/
theorem fillFrame_of_writing {s : State} (h : Inv s) (hw : s.fillState = .writing) :
    ∃ u, genFrame s = .next u ∧ SameButMix s u ∧ fillFrame s = .next (countFrame
      ((advance u).setRing (s.ring.write (ringIndex s.cfg s.filling s.frameIdx) u.tmp.frame))) := by
  obtain ⟨t, u, hgen, hprod, -, rfl⟩ := produceFrame_spec (Inv.mixReady h) (ringInRange_fill h)
  exact ⟨u, hgen, genFrame_sameButMix hgen,
    fillFrame_eq_next.mpr ⟨enabled_fillfrm_of_writing h hw, _, hprod, rfl⟩⟩

/-! ### The obligation -/

/-- Settles O37: a produced frame is one write of RING, which reads back at its own place and nowhere else, and GENFRAME
leaves the fill micro-state that `countFrame` reads. -/
theorem fillfrmWritesOneFrame : Obligations.FillfrmWritesOneFrame := by
  intro s h hw
  obtain ⟨u, hgen, hsame, hfill⟩ := fillFrame_of_writing h hw
  rw [countFrame_of_writing (s := (advance u).setRing _) (hsame.fillState.trans hw)] at hfill
  refine ⟨_, u, advance u, hfill, hgen, exec_advance u, Ring.read_write_same _ _ _,
    fun a ha => Ring.read_write_other _ _ ha, ?_⟩
  simp [hsame.cfg, hsame.filling, hsame.frameIdx]

end Sys2Proof.Machine

/-! The obligations about encodings: decode and encode are inverse, and what is reserved is rejected by its own name. -/

namespace Sys2Proof

/-! ### The fields of an OP word as numbers -/

theorem opField_toNat (w : OpWord) : (OpWord.opField w).toNat = w.toNat % 32 := by
  simp [OpWord.opField]

theorem zeroField_toNat (w : OpWord) : (OpWord.zeroField w).toNat = w.toNat / 32 % 8 := by
  simp [OpWord.zeroField, Nat.shiftRight_eq_div_pow]

theorem voiceField_toNat (w : OpWord) : (OpWord.voiceField w).toNat = w.toNat / 256 := by
  have := w.isLt
  simp [OpWord.voiceField, Nat.shiftRight_eq_div_pow]
  omega

theorem zeroField_eq_zero_iff (w : OpWord) : OpWord.zeroField w = 0 ↔ w.toNat / 32 % 8 = 0 := by
  rw [← zeroField_toNat, ← BitVec.toNat_inj]
  rfl

theorem voiceField_eq_zero_iff (w : OpWord) : OpWord.voiceField w = 0 ↔ w.toNat / 256 = 0 := by
  rw [← voiceField_toNat, ← BitVec.toNat_inj]
  rfl

/-! ### Operations without a voice operand -/

theorem withoutVoice_eq_ok {v : VoiceField} {i j : Instr} : withoutVoice v j = .ok i ↔ v = 0 ∧ j = i := by
  unfold withoutVoice
  split
  · next hv => simp [hv]
  · next hv => exact ⟨nofun, fun h => absurd h.1 hv⟩

@[simp] theorem withoutVoice_zero (i : Instr) : withoutVoice 0#8 i = .ok i := rfl

theorem withoutVoice_of_ne {v : VoiceField} (h : v ≠ 0) (i : Instr) : withoutVoice v i = .error .strayVoice :=
  if_neg h

/-! ### Decoding undoes encoding, and only encodings decode -/

theorem decode_encode (i : Instr) : decode (encode i) = .ok i := by
  cases i <;> simp [encode, decode, decodeSym, decodeOp, zeroField_opWord, opField_opWord, voiceField_opWord]

theorem encode_of_decodeSym {row : Nat} {code : SymCode} {i : Instr} (h : decodeSym row code = .ok i) :
    encode i = .sym row code := by
  have of_code : ∀ k : SymCode, code.toNat = k.toNat → Cmd.sym row k = .sym row code :=
    fun k hk => by rw [BitVec.eq_of_toNat_eq hk]
  unfold decodeSym at h
  split at h
  case h_11 => cases h
  all_goals
    next hcode =>
    cases h
    exact of_code _ hcode

theorem encode_of_decodeOp {w : OpWord} {i : Instr} (h : decodeOp w = .ok i) : encode i = .op w := by
  unfold decodeOp at h
  dsimp only at h
  split at h
  · cases h
  · next hz =>
    have hw : w = opWord (OpWord.opField w) (OpWord.voiceField w) := opWord_fields w (not_not.mp hz)
    have of_fields : ∀ (op : BitVec 5) (v : VoiceField), (OpWord.opField w).toNat = op.toNat →
        OpWord.voiceField w = v → Cmd.op (opWord op v) = .op w := by
      intro op v hop hv
      rw [← BitVec.eq_of_toNat_eq hop, ← hv, ← hw]
    split at h
    case h_21 => cases h
    case h_5 hop | h_6 hop | h_7 hop | h_8 hop | h_12 hop =>
      cases h
      exact of_fields _ _ hop rfl
    all_goals
      next hop =>
      obtain ⟨hv, rfl⟩ := withoutVoice_eq_ok.mp h
      exact of_fields _ _ hop hv

/-- Settles O2: an encoding decodes to its instruction by computing its fields, and a command that decodes is in the row
of its instruction. -/
theorem decodeInvertsEncode : Obligations.DecodeInvertsEncode := by
  intro cmd i
  constructor
  · intro h
    cases cmd with
    | op w => exact (encode_of_decodeOp h).symm
    | sym row code => exact (encode_of_decodeSym h).symm
  · rintro rfl
    exact decode_encode i

/-- Settles O1. -/
theorem tableRowsDecode : Obligations.TableRowsDecode := by
  unfold Obligations.TableRowsDecode
  decide

/-! ### What is reserved -/

theorem decodeSym_eq_reserved_iff (row : Nat) (code : SymCode) : decodeSym row code = .error .reservedSymbol ↔
    code.toNat ≠ 0x20 ∧ ¬ (0x31 ≤ code.toNat ∧ code.toNat ≤ 0x39) := by
  unfold decodeSym
  split
  case h_11 =>
    simp only [imp_false, true_iff] at *
    omega
  all_goals simp [*]

theorem decodeOp_of_zeroField_ne {w : OpWord} (h : w.toNat / 32 % 8 ≠ 0) : decodeOp w = .error .zeroFieldNotZero :=
  if_pos (mt (zeroField_eq_zero_iff w).mp h)

/-- With a zero field of 0 the operation number decides: a number of the table is an operation with or without a voice
operand, any other is reserved. -/
theorem decodeOp_cases {w : OpWord} (hz : w.toNat / 32 % 8 = 0) :
    (0x14 ≤ w.toNat % 32 ∧ decodeOp w = .error .reservedOp) ∨
    (((0x04 ≤ w.toNat % 32 ∧ w.toNat % 32 ≤ 0x07) ∨ w.toNat % 32 = 0x0B) ∧ ∃ i, decodeOp w = .ok i) ∨
    (w.toNat % 32 < 0x14 ∧ ¬ (0x04 ≤ w.toNat % 32 ∧ w.toNat % 32 ≤ 0x07) ∧ w.toNat % 32 ≠ 0x0B ∧
      ∃ i, decodeOp w = withoutVoice (OpWord.voiceField w) i) := by
  unfold decodeOp
  rw [if_neg (not_not.mpr ((zeroField_eq_zero_iff w).mpr hz)), ← opField_toNat]
  split
  case h_21 =>
    refine .inl ⟨?_, rfl⟩
    simp only [imp_false] at *
    omega
  case h_5 hop | h_6 hop | h_7 hop | h_8 hop | h_12 hop => exact .inr (.inl ⟨by omega, _, rfl⟩)
  all_goals exact .inr (.inr ⟨by omega, by omega, by omega, _, rfl⟩)

/-- Settles O3: by the three kinds of operation numbers. -/
theorem reservedCommandsRejected : Obligations.ReservedCommandsRejected := by
  refine ⟨decodeSym_eq_reserved_iff, fun w => ⟨decodeOp_of_zeroField_ne, fun hz hop => ?_, fun hz hop hv hr hb => ?_,
    fun hz hop hv => ?_⟩⟩
  · obtain ⟨-, h⟩ | ⟨h, -⟩ | ⟨h, -⟩ := decodeOp_cases hz
    · exact h
    · omega
    · omega
  · obtain ⟨h, -⟩ | ⟨h, -⟩ | ⟨-, -, -, i, h⟩ := decodeOp_cases hz
    · omega
    · omega
    · exact h.trans (withoutVoice_of_ne (mt (voiceField_eq_zero_iff w).mp hv) i)
  · obtain ⟨h, -⟩ | ⟨-, h⟩ | ⟨-, hr, hb, i, h⟩ := decodeOp_cases hz
    · omega
    · exact h
    · have hv0 : w.toNat / 256 = 0 := hv.resolve_right (not_or.mpr ⟨hr, hb⟩)
      exact ⟨i, h.trans (withoutVoice_eq_ok.mpr ⟨(voiceField_eq_zero_iff w).mpr hv0, rfl⟩)⟩

end Sys2Proof

/-! The obligations about arithmetic (R9) and about the position of the sequencer (R120 to R122), and the equations of
`exec` that later parts use. -/

namespace Sys2Proof.Machine

open Sys2Proof.Safety

/-! ### The wrap and the floor shift -/

theorem two_pow_dvd_wrapW_sub (W : Nat) (x : Int) : (2 : Int) ^ W ∣ wrapW W x - x :=
  Int.dvd_of_emod_eq_zero (Int.emod_eq_emod_iff_emod_sub_eq_zero.mp (wrapW_emod W x))

/-- Two signed W-bit values that are congruent modulo 2^W are equal. -/
theorem SignedRange_unique {W : Nat} (hW : 1 ≤ W) {x y : Int} (hx : SignedRange W x) (hy : SignedRange W y)
    (h : (2 : Int) ^ W ∣ x - y) : x = y := by
  obtain ⟨k, rfl⟩ : ∃ k, W = k + 1 := ⟨W - 1, by omega⟩
  obtain ⟨hx1, hx2⟩ := hx
  obtain ⟨hy1, hy2⟩ := hy
  rw [Nat.add_sub_cancel] at hx1 hx2 hy1 hy2
  have hpow : (2 : Int) ^ (k + 1) = 2 * 2 ^ k := by ring
  have hsmall : |x - y| < 2 ^ (k + 1) := abs_lt.mpr ⟨by omega, by omega⟩
  exact sub_eq_zero.mp (Int.eq_zero_of_abs_lt_dvd h hsmall)

theorem wrapW_eq_self_iff {W : Nat} (hW : 1 ≤ W) (x : Int) : wrapW W x = x ↔ SignedRange W x := by
  constructor
  · intro h
    rw [← h]
    exact wrapW_range hW x
  · intro h
    exact SignedRange_unique hW (wrapW_range hW x) h (two_pow_dvd_wrapW_sub W x)

/-- Settles O60: the wrap by its range and congruence, which fix it; the shift by the bounds of the floored quotient. -/
theorem wrapAndShiftAreAsDefined : Obligations.WrapAndShiftAreAsDefined := by
  refine ⟨fun W x hW => ⟨wrapW_range hW x, two_pow_dvd_wrapW_sub W x, fun y hy hdvd => ?_⟩, fun x n => ?_⟩
  · refine SignedRange_unique hW hy (wrapW_range hW x) ?_
    have := dvd_sub hdvd (two_pow_dvd_wrapW_sub W x)
    rwa [sub_sub_sub_cancel_right] at this
  · have hpos : (0 : Int) < 2 ^ n := by positivity
    exact ⟨Int.ediv_mul_le x hpos.ne', Int.lt_ediv_add_one_mul_self x hpos⟩

/-! ### The instructions as their shared operations -/

theorem exec_reset (s : State) : exec .reset s = .next (resetBlock s) := rfl
theorem exec_tickq (s : State) : exec .tickq s = .next (tickQuery s) := rfl
theorem exec_vfetch (v : VoiceField) (s : State) : exec (.vfetch v) s = voiceFetch v.toNat s := rfl
theorem exec_gain (v : VoiceField) (s : State) : exec (.gain v) s = voiceGain v.toNat s := rfl
theorem exec_panmul (v : VoiceField) (s : State) : exec (.panmul v) s = panMul v.toNat s := rfl
theorem exec_accclr (s : State) : exec .accclr s = .next (accClear s) := rfl
theorem exec_accadd (s : State) : exec .accadd s = .next (accAdd s) := rfl
theorem exec_pack (s : State) : exec .pack s = .next (packFrame s) := rfl
theorem exec_mixv (v : VoiceField) (s : State) : exec (.mixv v) s = mixVoice v.toNat s := rfl
theorem exec_fillchk (s : State) : exec .fillchk s = fillCheck s := rfl
theorem exec_fill (s : State) : exec .fill s = fillSlot s := rfl
theorem exec_complete (s : State) : exec .complete s = completeSlot s := rfl
theorem exec_devread (s : State) : exec .devread s = deviceRead s := rfl
theorem exec_prefill (s : State) : exec .prefill s = prefillRing s := rfl
theorem exec_start (s : State) : exec .start s = startDevice s := rfl

/-! ### Traces -/

theorem runInstrs_nil (s : State) : runInstrs [] s = .next s := rfl

theorem runInstrs_singleton (i : Instr) (s : State) : runInstrs [i] s = exec i s := by
  unfold runInstrs
  cases exec i s <;> rfl

theorem runInstrs_append (is js : List Instr) (s : State) :
    runInstrs (is ++ js) s = andThen (runInstrs is s) (runInstrs js) := by
  induction is generalizing s with
  | nil => rfl
  | cons i is ih =>
    rw [List.cons_append, runInstrs, runInstrs, andThen_assoc]
    congr 1
    exact funext ih

/-- One instruction more at the end of a trace that has run. -/
theorem runInstrs_snoc {is : List Instr} {i : Instr} {s t : State} (h : runInstrs is s = .next t) :
    runInstrs (is ++ [i]) s = exec i t := by
  rw [runInstrs_append, h, andThen_next, runInstrs_singleton]

/-! ### The position and its number -/

theorem mul_add_lt_mul {a b m k : Nat} (ha : a < m) (hb : b < k) : a * k + b < m * k :=
  calc a * k + b < (a + 1) * k := by rw [Nat.succ_mul]; omega
    _ ≤ m * k := Nat.mul_le_mul_right k ha

theorem mul_add_div_mod {a b k : Nat} (hb : b < k) : (a * k + b) / k = a ∧ (a * k + b) % k = b := by
  have hk : 0 < k := by omega
  constructor
  · rw [Nat.mul_comm, Nat.mul_add_div hk, Nat.div_eq_of_lt hb, Nat.add_zero]
  · rw [Nat.mul_comm, Nat.mul_add_mod, Nat.mod_eq_of_lt hb]

/-- The position of a number: the inverse of `positionNumber` on 0 .. P − 1 (R122). -/
def timingAt (c : Cfg) (n : Nat) : Timing where
  bar := n / (c.samplesPerTick * c.barLen)
  tickOfBar := n / c.samplesPerTick % c.barLen
  sampleOfTick := n % c.samplesPerTick

theorem positionNumber_timingAt (c : Cfg) (n : Nat) : positionNumber c (timingAt c n) = n := by
  simp only [positionNumber, timingAt]
  rw [← Nat.div_div_eq_div_mul, Nat.div_add_mod', Nat.div_add_mod']

theorem timingAt_inRange {c : Cfg} {n : Nat} (h : n < period c) : TimingInRange c (timingAt c n) := by
  have hpos : 0 < c.samplesPerTick * c.barLen := by
    by_contra h0
    rw [period, Nat.eq_zero_of_not_pos h0, Nat.zero_mul] at h
    exact Nat.not_lt_zero _ h
  exact ⟨Nat.div_lt_of_lt_mul h, Nat.mod_lt _ (Nat.pos_of_mul_pos_left hpos),
    Nat.mod_lt _ (Nat.pos_of_mul_pos_right hpos)⟩

theorem positionNumber_lt_period {c : Cfg} {t : Timing} (h : TimingInRange c t) : positionNumber c t < period c := by
  obtain ⟨hbar, htick, hsample⟩ := h
  have hP : period c = c.loopBars * c.barLen * c.samplesPerTick := by unfold period; ring
  rw [hP]
  exact mul_add_lt_mul (mul_add_lt_mul hbar htick) hsample

theorem timingAt_positionNumber {c : Cfg} {t : Timing} (h : TimingInRange c t) :
    timingAt c (positionNumber c t) = t := by
  obtain ⟨-, htick, hsample⟩ := h
  obtain ⟨hdiv, hmod⟩ := mul_add_div_mod (a := t.bar * c.barLen + t.tickOfBar) hsample
  obtain ⟨hdiv', hmod'⟩ := mul_add_div_mod (a := t.bar) htick
  simp only [timingAt, positionNumber, ← Nat.div_div_eq_div_mul, hdiv, hmod, hdiv', hmod']

/-- ADVANCE adds one modulo P (R122): unless all three counters wrap the number grows by one, and then it was P − 1. -/
theorem positionNumber_advance {c : Cfg} {t : Timing} (h : TimingInRange c t) :
    positionNumber c (t.advance c) = (positionNumber c t + 1) % period c := by
  have of_succ : positionNumber c (t.advance c) = positionNumber c t + 1 →
      positionNumber c (t.advance c) = (positionNumber c t + 1) % period c := by
    intro hsucc
    have := positionNumber_lt_period (Timing.advance_inRange h)
    rw [← hsucc, Nat.mod_eq_of_lt this]
  by_cases hs : t.sampleOfTick + 1 = c.samplesPerTick
  · by_cases ht : t.tickOfBar + 1 = c.barLen
    · by_cases hb : t.bar + 1 = c.loopBars
      · have hlast : positionNumber c t + 1 = period c := by
          rw [positionNumber, period, Nat.add_assoc, hs, ← hb, ← ht]
          ring
        rw [hlast, Nat.mod_self]
        simp [Timing.advance, hs, ht, hb, positionNumber]
      · refine of_succ ?_
        simp only [Timing.advance, hs, ht, hb, positionNumber, if_true, if_false]
        rw [Nat.add_assoc _ t.sampleOfTick, hs, ← ht]
        ring
    · refine of_succ ?_
      simp only [Timing.advance, hs, ht, positionNumber, if_true, if_false]
      rw [Nat.add_assoc _ t.sampleOfTick, hs]
      ring
  · refine of_succ ?_
    simp only [Timing.advance, hs, positionNumber, if_false, Nat.add_assoc]

theorem advance_timingAt {c : Cfg} {n : Nat} (h : n < period c) :
    (timingAt c n).advance c = timingAt c ((n + 1) % period c) := by
  have hin := timingAt_inRange h
  rw [← timingAt_positionNumber (Timing.advance_inRange hin), positionNumber_advance hin, positionNumber_timingAt]

/-! ### The obligations about the position -/

/-- Settles O11. -/
theorem tickqAnswersTickStart : Obligations.TickqAnswersTickStart :=
  fun _ => rfl

/-- Settles O12: the three wraps of `Timing.advance`, which keep a position in range (`Timing.advance_inRange`). -/
theorem advanceCarries : Obligations.AdvanceCarries := by
  refine fun s => ⟨?_, fun hin t ht => ?_⟩
  · rw [exec_advance, advance, State.setTiming]
    congr 2
    unfold Timing.advance
    split
    · split
      · split <;> rfl
      · rfl
    · rfl
  · rw [exec_advance] at ht
    cases ht
    exact Timing.advance_inRange hin

/-- Settles O13: `timingAt` is the inverse of the numbering. -/
theorem advanceAddsOneToPosition : Obligations.AdvanceAddsOneToPosition := by
  refine ⟨fun c t ht => positionNumber_lt_period ht, fun c t u ht hu htu => ?_,
    fun c n hn => ⟨timingAt c n, timingAt_inRange hn, positionNumber_timingAt c n⟩, fun s t hin ht => ?_⟩
  · rw [← timingAt_positionNumber ht, htu, timingAt_positionNumber hu]
  · rw [exec_advance] at ht
    cases ht
    exact positionNumber_advance hin

/-- T times ADVANCE from the position numbered 0 (R122). -/
theorem runInstrs_replicate_advance {s : State} (hP : 0 < period s.cfg) (h0 : s.timing = timingAt s.cfg 0) (T : Nat) :
    runInstrs (List.replicate T .advance) s = .next (s.setTiming (timingAt s.cfg (T % period s.cfg))) := by
  induction T with
  | zero => rw [Nat.zero_mod, ← h0]; rfl
  | succ T ih =>
    rw [List.replicate_succ', runInstrs_snoc ih, exec_advance]
    have hnext := advance_timingAt (Nat.mod_lt T hP)
    rw [Nat.mod_add_mod] at hnext
    simp only [advance, State.setTiming, hnext]

/-- Settles O14: by induction on the number of ADVANCEs. -/
theorem advanceIsModularArithmetic : Obligations.AdvanceIsModularArithmetic := by
  intro s T hS hB hL h0
  have hP : 0 < period s.cfg := Nat.mul_pos (Nat.mul_pos hS hB) hL
  exact runInstrs_replicate_advance hP (h0.trans (by simp [timingAt])) T

end Sys2Proof.Machine

/-! What each instruction may write, said once for the whole machine (`exec_writes`), what every instruction keeps of the
Voice Bank (`VoicesInvariant`), and the obligations that follow: the static state, the single-writer discipline and the
writers of the data path. -/

namespace Sys2Proof.Machine

open Sys2Proof.Safety

/-! ### The fields an instruction may write -/

/-- `s` with the fields instruction `i` may write taken from `t`; `exec_writes` ties it to `exec`. -/
def written (i : Instr) (s t : State) : State :=
  match i with
  | .nohit _ => s
  | .hit1 _ | .hit2 _ | .hit3 _ | .hit4 _ | .hit5 _ | .hit6 _ | .hit7 _ | .hit8 _ | .hit9 _ | .trigscan | .vstep _ =>
    { s with voices := t.voices }
  | .tickq | .vfetch _ | .gain _ | .panmul _ | .pack => { s with tmp := t.tmp }
  | .advance => { s with timing := t.timing }
  | .accclr | .accadd => { s with accL := t.accL, accR := t.accR }
  | .mixv _ | .genframe => { s with voices := t.voices, accL := t.accL, accR := t.accR, tmp := t.tmp }
  | .fillchk => { s with fillState := t.fillState, frameIdx := t.frameIdx }
  | .fillfrm =>
    { s with
      timing := t.timing, voices := t.voices, accL := t.accL, accR := t.accR, tmp := t.tmp,
      ring := t.ring, filling := t.filling, fillState := t.fillState, frameIdx := t.frameIdx }
  | .fill =>
    { s with
      timing := t.timing, voices := t.voices, accL := t.accL, accR := t.accR, tmp := t.tmp,
      ring := t.ring, filling := t.filling, fillState := t.fillState, frameIdx := t.frameIdx,
      playing := t.playing, devRd := t.devRd, out := t.out, gaps := t.gaps }
  | .complete => { s with playing := t.playing, devRd := t.devRd }
  | .devread => { s with devRd := t.devRd, out := t.out }
  | .prefill =>
    { s with
      timing := t.timing, voices := t.voices, accL := t.accL, accR := t.accR, tmp := t.tmp,
      ring := t.ring, filling := t.filling, prefilled := t.prefilled }
  | .start => { s with playing := t.playing, devRd := t.devRd, devActive := t.devActive }
  | .reset =>
    { s with
      timing := t.timing, voices := t.voices, accL := t.accL, accR := t.accR, playing := t.playing,
      filling := t.filling, ring := t.ring, fillState := t.fillState, frameIdx := t.frameIdx,
      devActive := t.devActive, devRd := t.devRd, prefilled := t.prefilled, resets := t.resets }

theorem written_trans {i : Instr} {s u t : State} (hu : u = written i s u) (ht : t = written i u t) :
    t = written i s t := by
  rw [ht, hu]
  cases i <;> rfl

theorem trigger_writes {v level : Nat} {s t : State} (h : trigger v level s = .next t) :
    t = { s with voices := t.voices } := by
  obtain ⟨x, -, rfl⟩ := trigger_eq_next.mp h
  rfl

theorem execSymbol_writes {v : Nat} {code : SymCode} {s t : State} (h : execSymbol v code s = .next t) :
    t = { s with voices := t.voices } := by
  unfold execSymbol at h
  split at h
  · cases h; rfl
  · split at h
    · exact trigger_writes h
    · cases h

theorem trigScan_writes {s t : State} (h : trigScan s = .next t) : t = written .trigscan s t := by
  obtain ⟨p, -, hscan⟩ := trigScan_eq_next.mp h
  refine forEach_keeps (P := fun u => u = written .trigscan s u) (fun v u w hu hw => ?_) _ _ _ rfl hscan
  obtain ⟨code, -, hsym⟩ := scanVoice_eq_next.mp hw
  exact written_trans hu (execSymbol_writes hsym)

theorem produceFrame_writes {f : Nat} {s t : State} (h : produceFrame f s = .next t) :
    t = { s with timing := t.timing, voices := t.voices, accL := t.accL, accR := t.accR, tmp := t.tmp,
                 ring := t.ring } := by
  obtain ⟨u, hgen, -, rfl⟩ := produceFrame_eq_next.mp h
  rw [genFrame_sameButMix hgen]
  rfl

theorem countFrame_writes (s : State) : countFrame s =
    { s with filling := (countFrame s).filling, fillState := (countFrame s).fillState,
             frameIdx := (countFrame s).frameIdx } := by
  unfold countFrame
  split <;> rfl

theorem fillFrame_writes {s t : State} (h : fillFrame s = .next t) : t = written .fillfrm s t := by
  obtain ⟨-, u, hprod, rfl⟩ := fillFrame_eq_next.mp h
  rw [countFrame_writes, produceFrame_writes hprod]
  rfl

theorem gapThenFrame_eq_next {s t : State} : gapThenFrame s = .next t ↔
    ∃ u, deviceGap s = .next u ∧ fillFrame u = .next t := andThen_eq_next

theorem gapThenFrame_writes {s t : State} (h : gapThenFrame s = .next t) : t = written .fill s t := by
  obtain ⟨u, hgap, hfrm⟩ := gapThenFrame_eq_next.mp h
  rw [fillFrame_writes hfrm, deviceGap_keeps hgap]
  rfl

theorem fillSlot_writes {s t : State} (h : fillSlot s = .next t) : t = written .fill s t := by
  obtain ⟨-, ⟨-, rfl⟩ | ⟨-, hloop⟩⟩ := fillSlot_eq_next.mp h
  · rfl
  · exact forEach_keeps (P := fun u => u = written .fill s u)
      (fun _ u w hu hw => written_trans hu (gapThenFrame_writes hw)) _ (s.setFill .writing 0) _ rfl hloop

theorem prefillSlot_writes {s t : State} (h : prefillSlot s = .next t) : t = written .prefill s t := by
  obtain ⟨u, hloop, rfl⟩ := prefillSlot_eq_next.mp h
  have hu : u = written .prefill s u :=
    forEach_keeps (P := fun u => u = written .prefill s u)
      (fun f u w hu hw => written_trans hu (by rw [produceFrame_writes hw]; rfl)) _ _ _ rfl hloop
  exact written_trans hu rfl

theorem prefillRing_writes {s t : State} (h : prefillRing s = .next t) : t = written .prefill s t := by
  obtain ⟨-, u, hloop, rfl⟩ := prefillRing_eq_next.mp h
  have hu : u = written .prefill s u :=
    forEach_keeps (P := fun u => u = written .prefill s u)
      (fun _ u w hu hw => written_trans hu (prefillSlot_writes hw)) _ _ _ rfl hloop
  exact written_trans hu rfl

/-- An instruction writes the fields of its row of `written` and no other. -/
theorem exec_writes {i : Instr} {s t : State} (h : exec i s = .next t) : t = written i s t := by
  cases i with
  | nohit v | reset | tickq | advance | accclr | accadd | pack => cases h; rfl
  | hit1 v | hit2 v | hit3 v | hit4 v | hit5 v | hit6 v | hit7 v | hit8 v | hit9 v => exact trigger_writes h
  | trigscan => exact trigScan_writes h
  | vfetch v => obtain ⟨x, e, -, -, rfl⟩ := voiceFetch_eq_next.mp h; rfl
  | vstep v => obtain ⟨x, -, ⟨-, rfl⟩ | ⟨-, len, -, rfl⟩⟩ := voiceStep_eq_next.mp h <;> rfl
  | gain v => obtain ⟨x, -, rfl⟩ := voiceGain_eq_next.mp h; rfl
  | panmul v => obtain ⟨x, -, rfl⟩ := panMul_eq_next.mp h; rfl
  | mixv v => exact mixVoice_sameButMix h
  | genframe => exact genFrame_sameButMix h
  | fillchk => obtain ⟨-, ⟨-, rfl⟩ | ⟨-, rfl⟩⟩ := fillCheck_eq_next.mp h <;> rfl
  | fillfrm => exact fillFrame_writes h
  | fill => exact fillSlot_writes h
  | complete => obtain ⟨-, rfl⟩ := completeSlot_eq_next.mp h; rfl
  | devread => obtain ⟨-, -, rfl⟩ := deviceRead_eq_next.mp h; rfl
  | prefill => exact prefillRing_writes h
  | start => obtain ⟨-, rfl⟩ := startDevice_eq_next.mp h; rfl

/-! ### Fields every instruction keeps -/

theorem exec_cfg {i : Instr} {s t : State} (h : exec i s = .next t) : t.cfg = s.cfg := by
  rw [exec_writes h]
  cases i <;> rfl

theorem exec_schedule {i : Instr} {s t : State} (h : exec i s = .next t) : t.cmds = s.cmds ∧ t.turn = s.turn := by
  rw [exec_writes h]
  cases i <;> exact ⟨rfl, rfl⟩

theorem exec_gaps {i : Instr} {s t : State} (h : exec i s = .next t) (hi : i ≠ .fill) : t.gaps = s.gaps := by
  rw [exec_writes h]
  cases i with
  | fill => exact absurd rfl hi
  | _ => rfl

/-- With no gaps to come FILL leaves the device's side alone (R212). -/
theorem fillSlot_device_of_no_gaps {s t : State} (hg : s.gaps = []) (h : fillSlot s = .next t) :
    t.out = s.out ∧ t.playing = s.playing ∧ t.devRd = s.devRd ∧ t.gaps = [] := by
  obtain ⟨-, ⟨-, rfl⟩ | ⟨-, hloop⟩⟩ := fillSlot_eq_next.mp h
  · exact ⟨rfl, rfl, rfl, hg⟩
  · refine forEach_keeps (P := fun u => u.out = s.out ∧ u.playing = s.playing ∧ u.devRd = s.devRd ∧ u.gaps = [])
      (fun _ u w hu hw => ?_) _ (s.setFill .writing 0) _ ⟨rfl, rfl, rfl, hg⟩ hloop
    obtain ⟨hout, hplay, hrd, hgaps⟩ := hu
    rw [gapThenFrame_of_nil hgaps] at hw
    rw [fillFrame_writes hw]
    exact ⟨hout, hplay, hrd, hgaps⟩

/-! ### What every instruction keeps of the Voice Bank -/

/-- Replacing an element by one with the same image leaves the images as they were. -/
theorem map_set_of_same {β : Type} (f : Voice → β) {xs : List Voice} {v : Nat} {x y : Voice} (hx : xs[v]? = some x)
    (hxy : f y = f x) : (xs.set v y).map f = xs.map f := by
  obtain ⟨hv, rfl⟩ := List.getElem?_eq_some_iff.mp hx
  rw [List.map_set, hxy]
  apply List.ext_getElem (by simp)
  intro k hk hk'
  by_cases hvk : v = k
  · subst hvk; simp
  · simp [hvk]

/-- MIXV writes the Voice Bank as VSTEP does after VFETCH, or not at all (R188). -/
theorem mixVoice_voices {v : Nat} {s t : State} (h : mixVoice v s = .next t) :
    t.voices = s.voices ∨ ∃ tmp u, voiceStep v (s.setTmp tmp) = .next u ∧ t.voices = u.voices := by
  obtain ⟨x, -, h⟩ := withVoice_eq_next.mp h
  split at h
  · obtain ⟨s1, hfetch, h⟩ := andThen_eq_next.mp h
    obtain ⟨s2, hstep, h⟩ := andThen_eq_next.mp h
    obtain ⟨s3, hgain, h⟩ := andThen_eq_next.mp h
    obtain ⟨s4, hpan, h⟩ := andThen_eq_next.mp h
    cases h
    obtain ⟨_, _, -, -, rfl⟩ := voiceFetch_eq_next.mp hfetch
    obtain ⟨_, -, rfl⟩ := voiceGain_eq_next.mp hgain
    obtain ⟨_, -, rfl⟩ := panMul_eq_next.mp hpan
    exact .inr ⟨_, s2, hstep, rfl⟩
  · cases h; exact .inl rfl

/-- A property of the Voice Bank that the two ways of writing it keep: a digit the scan reads from a grid of the song
(R140, R151), and a step of a playing voice (R153). -/
structure VoicesInvariant (c : Cfg) (Q : List Voice → Prop) : Prop where
  digit : ∀ {p v tick : Nat} {code : SymCode} {xs : List Voice} {x : Voice}, p ∈ c.song →
    readPattern c p v tick = some code → code ≠ 0x20 → code.toNat ≤ 0x39 → xs[v]? = some x → Q xs →
    Q (xs.set v { x with pos := 1, emph := emphasis (levelOf code) c.emphStep })
  step : ∀ {v len : Nat} {xs : List Voice} {x : Voice}, xs[v]? = some x → x.pos ≠ 0 →
    tableLen c x.sample = some len → Q xs →
    Q (xs.set v { x with pos := if x.pos + 1 = len then 0 else x.pos + 1 })

section

variable {c : Cfg} {Q : List Voice → Prop} (hQ : VoicesInvariant c Q)

include hQ

theorem VoicesInvariant.scanVoice {p v : Nat} {s t : State} (hp : p ∈ c.song) (hc : s.cfg = c) (hs : Q s.voices)
    (h : scanVoice p v s = .next t) : Q t.voices := by
  obtain ⟨code, hcode, hsym⟩ := scanVoice_eq_next.mp h
  unfold execSymbol at hsym
  split at hsym
  · cases hsym; exact hs
  · next hblank =>
    split at hsym
    · next hdigit =>
      obtain ⟨x, hx, rfl⟩ := trigger_eq_next.mp hsym
      subst hc
      exact hQ.digit hp hcode hblank hdigit.2 hx hs
    · cases hsym

theorem VoicesInvariant.trigScan {s t : State} (hc : s.cfg = c) (hs : Q s.voices) (h : trigScan s = .next t) :
    Q t.voices := by
  obtain ⟨p, hp, hscan⟩ := trigScan_eq_next.mp h
  have hmem : p ∈ c.song := hc ▸ List.mem_of_getElem? hp
  refine (forEach_keeps (P := fun u => u.cfg = c ∧ Q u.voices) (fun v u w hu hw => ⟨?_, ?_⟩) _ _ _ ⟨hc, hs⟩ hscan).2
  · obtain ⟨code, -, hsym⟩ := scanVoice_eq_next.mp hw
    exact (execSymbol_sameButMix hsym).cfg.trans hu.1
  · exact hQ.scanVoice hmem hu.1 hu.2 hw

theorem VoicesInvariant.voiceStep {v : Nat} {s t : State} (hc : s.cfg = c) (hs : Q s.voices)
    (h : voiceStep v s = .next t) : Q t.voices := by
  obtain ⟨x, hx, ⟨-, rfl⟩ | ⟨hpos, len, hlen, rfl⟩⟩ := voiceStep_eq_next.mp h
  · exact hs
  · subst hc
    exact hQ.step hx hpos hlen hs

theorem VoicesInvariant.mixVoice {v : Nat} {s t : State} (hc : s.cfg = c) (hs : Q s.voices)
    (h : mixVoice v s = .next t) : Q t.voices := by
  obtain hsame | ⟨tmp, u, hstep, hsame⟩ := mixVoice_voices h
  · exact hsame ▸ hs
  · exact hsame ▸ hQ.voiceStep (s := s.setTmp tmp) hc hs hstep

theorem VoicesInvariant.genFrame {s t : State} (hc : s.cfg = c) (hs : Q s.voices) (h : genFrame s = .next t) :
    Q t.voices := by
  obtain ⟨u, w, htrig, hmix, rfl⟩ := genFrame_eq_next.mp h
  have hu : u.cfg = c ∧ Q u.voices := by
    split at htrig
    · exact ⟨(trigScan_sameButMix htrig).cfg.trans hc, hQ.trigScan (s := tickQuery s) hc hs htrig⟩
    · cases htrig; exact ⟨hc, hs⟩
  exact (forEach_keeps (P := fun u => u.cfg = c ∧ Q u.voices)
    (fun v u w hu hw => ⟨(mixVoice_sameButMix hw).cfg.trans hu.1, hQ.mixVoice hu.1 hu.2 hw⟩) _ (accClear u) _ hu hmix).2

theorem VoicesInvariant.produceFrame {f : Nat} {s t : State} (hc : s.cfg = c) (hs : Q s.voices)
    (h : produceFrame f s = .next t) : Q t.voices := by
  obtain ⟨u, hgen, -, rfl⟩ := produceFrame_eq_next.mp h
  exact hQ.genFrame (t := u) hc hs hgen

theorem VoicesInvariant.fillFrame {s t : State} (hc : s.cfg = c) (hs : Q s.voices) (h : fillFrame s = .next t) :
    Q t.voices := by
  obtain ⟨-, u, hprod, rfl⟩ := fillFrame_eq_next.mp h
  rw [countFrame_writes]
  exact hQ.produceFrame (t := u) hc hs hprod

theorem VoicesInvariant.fillSlot {s t : State} (hc : s.cfg = c) (hs : Q s.voices) (h : fillSlot s = .next t) :
    Q t.voices := by
  obtain ⟨-, ⟨-, rfl⟩ | ⟨-, hloop⟩⟩ := fillSlot_eq_next.mp h
  · exact hs
  · refine (forEach_keeps (P := fun u => u.cfg = c ∧ Q u.voices) (fun _ u w hu hw => ?_) _ (s.setFill .writing 0) _ ⟨hc, hs⟩
      hloop).2
    obtain ⟨v, hgap, hfrm⟩ := gapThenFrame_eq_next.mp hw
    have hv : v.cfg = c ∧ Q v.voices := by rw [deviceGap_keeps hgap]; exact hu
    exact ⟨by rw [fillFrame_writes hfrm]; exact hv.1, hQ.fillFrame hv.1 hv.2 hfrm⟩

theorem VoicesInvariant.prefillRing {s t : State} (hc : s.cfg = c) (hs : Q s.voices) (h : prefillRing s = .next t) :
    Q t.voices := by
  obtain ⟨-, u, hloop, rfl⟩ := prefillRing_eq_next.mp h
  refine (forEach_keeps (P := fun u => u.cfg = c ∧ Q u.voices) (fun _ u w hu hw => ?_) _ _ _ ⟨hc, hs⟩ hloop).2
  obtain ⟨v, hslot, rfl⟩ := prefillSlot_eq_next.mp hw
  refine forEach_keeps (P := fun u => u.cfg = c ∧ Q u.voices) (fun f u w hu hw => ⟨?_, ?_⟩) _ _ v hu hslot
  · rw [produceFrame_writes hw]; exact hu.1
  · exact hQ.produceFrame hu.1 hu.2 hw

/-- Every instruction but a symbol from outside and RESET keeps such a property. -/
theorem VoicesInvariant.exec {i : Instr} {s t : State} (hc : s.cfg = c) (hs : Q s.voices) (hsym : isSymbol i = false)
    (hreset : i ≠ .reset) (h : exec i s = .next t) : Q t.voices := by
  cases i with
  | nohit v | hit1 v | hit2 v | hit3 v | hit4 v | hit5 v | hit6 v | hit7 v | hit8 v | hit9 v => cases hsym
  | reset => exact absurd rfl hreset
  | trigscan => exact hQ.trigScan hc hs h
  | vstep v => exact hQ.voiceStep hc hs h
  | mixv v => exact hQ.mixVoice hc hs h
  | genframe => exact hQ.genFrame hc hs h
  | fillfrm => exact hQ.fillFrame hc hs h
  | fill => exact hQ.fillSlot hc hs h
  | prefill => exact hQ.prefillRing hc hs h
  | tickq | advance | vfetch v | gain v | panmul v | accclr | accadd | pack | fillchk | complete | devread | start =>
    rw [exec_writes h]; exact hs

end

/-! ### The obligations -/

theorem voicesInvariant_static (c : Cfg) (ys : List VoiceCfg) : VoicesInvariant c fun xs => xs.map staticOf = ys where
  digit _ _ _ _ hx hs := (map_set_of_same staticOf hx (by rfl)).trans hs
  step hx _ _ hs := (map_set_of_same staticOf hx (by rfl)).trans hs

/-- A symbol executed from outside changes nothing (R141) or is `trigger` at one of nine levels (R142 to R150). -/
theorem exec_symbol_cases {i : Instr} (hi : isSymbol i = true) :
    (∀ s, exec i s = .next s) ∨ ∃ v, ∃ level < 9, ∀ s, exec i s = trigger v level s := by
  cases i with
  | nohit v => exact .inl (exec_nohit v)
  | hit1 v => exact .inr ⟨v, 0, by decide, exec_hit1 v⟩
  | hit2 v => exact .inr ⟨v, 1, by decide, exec_hit2 v⟩
  | hit3 v => exact .inr ⟨v, 2, by decide, exec_hit3 v⟩
  | hit4 v => exact .inr ⟨v, 3, by decide, exec_hit4 v⟩
  | hit5 v => exact .inr ⟨v, 4, by decide, exec_hit5 v⟩
  | hit6 v => exact .inr ⟨v, 5, by decide, exec_hit6 v⟩
  | hit7 v => exact .inr ⟨v, 6, by decide, exec_hit7 v⟩
  | hit8 v => exact .inr ⟨v, 7, by decide, exec_hit8 v⟩
  | hit9 v => exact .inr ⟨v, 8, by decide, exec_hit9 v⟩
  | _ => cases hi

theorem exec_static {i : Instr} {s t : State} (h : exec i s = .next t) (hi : i ≠ .reset) :
    t.voices.map staticOf = s.voices.map staticOf := by
  cases hsym : isSymbol i with
  | false => exact (voicesInvariant_static s.cfg _).exec rfl rfl hsym hi h
  | true =>
    obtain hstay | ⟨v, level, -, htrig⟩ := exec_symbol_cases hsym
    · rw [hstay] at h
      cases h
      rfl
    · rw [htrig] at h
      obtain ⟨x, hx, rfl⟩ := trigger_eq_next.mp h
      exact map_set_of_same staticOf hx rfl

/-- Settles O56: no row of `written` holds the configuration, and both ways of writing a voice keep its static fields. -/
theorem staticStateNeverChanges : Obligations.StaticStateNeverChanges :=
  fun _ _ _ h => ⟨exec_cfg h, exec_static h⟩

/-- Settles O57: read off the rows of `written`. -/
theorem singleWriterDiscipline : Obligations.SingleWriterDiscipline := by
  intro i s t h
  have hw := exec_writes h
  refine ⟨fun hdev => ?_, fun hdev hgaps => ?_, fun hi => ?_, fun hi => ?_, fun hi => ?_, fun hi => ?_,
    (exec_schedule h).1, (exec_schedule h).2, exec_gaps h⟩
  · cases i with
    | complete | devread | start => rw [hw]; rfl
    | _ => cases hdev
  · cases i with
    | complete | devread | start => cases hdev
    | fill =>
      obtain ⟨hout, hplay, hrd, -⟩ := fillSlot_device_of_no_gaps (hgaps rfl) h
      exact ⟨hout, fun _ => ⟨hplay, hrd, by rw [hw]; rfl⟩⟩
    | reset => exact ⟨by rw [hw]; rfl, fun hr => absurd rfl hr⟩
    | _ => rw [hw]; exact ⟨rfl, fun _ => ⟨rfl, rfl, rfl⟩⟩
  · cases i with
    | fillfrm | fill | prefill | reset => simp at hi
    | _ => rw [hw]; exact ⟨rfl, rfl⟩
  · cases i with
    | fillchk | fillfrm | fill | reset => simp at hi
    | _ => rw [hw]; exact ⟨rfl, rfl⟩
  · cases i with
    | prefill | reset => simp at hi
    | _ => rw [hw]; rfl
  · cases i with
    | reset => exact absurd rfl hi
    | _ => rw [hw]; rfl

theorem voiceStep_emph {v : Nat} {s t : State} (h : voiceStep v s = .next t) :
    t.voices.map Voice.emph = s.voices.map Voice.emph := by
  obtain ⟨x, hx, ⟨-, rfl⟩ | ⟨-, len, -, rfl⟩⟩ := voiceStep_eq_next.mp h
  · rfl
  · exact map_set_of_same Voice.emph hx rfl

theorem mixVoice_emph {v : Nat} {s t : State} (h : mixVoice v s = .next t) :
    t.voices.map Voice.emph = s.voices.map Voice.emph := by
  obtain hsame | ⟨tmp, u, hstep, hsame⟩ := mixVoice_voices h
  · rw [hsame]
  · rw [hsame]
    exact voiceStep_emph (s := s.setTmp tmp) hstep

/-- Settles O58: the voices, the accumulators and the Timing State off the rows of `written`; the emphasis because a step
writes the offset alone. -/
theorem dataPathWriters : Obligations.DataPathWriters := by
  intro i s t h
  have hw := exec_writes h
  refine ⟨fun hi => ?_, fun hi => ?_, fun hi hm => ?_, fun hi => ?_⟩
  · cases i with
    | tickq | advance | accclr | accadd | pack | fillchk | complete | devread | start | nohit | vfetch | gain | panmul =>
      rw [hw]; rfl
    | _ => simp at hi
  · obtain ⟨v, rfl | rfl⟩ := hi
    · exact voiceStep_emph h
    · exact mixVoice_emph h
  · cases i with
    | accclr | accadd | genframe | fillfrm | fill | prefill | reset => simp at hi
    | mixv v => exact absurd rfl (hm v)
    | _ => rw [hw]; exact ⟨rfl, rfl⟩
  · cases i with
    | advance | fillfrm | fill | prefill | reset => simp at hi
    | _ => rw [hw]; rfl

end Sys2Proof.Machine

/-! The obligations about the step and about single steps: what a step fetches, where an operand is out of range, and the
steps of the ring controller. -/

namespace Sys2Proof.Machine

open Sys2Proof.Safety

/-! ### Fetching -/

theorem decodeCommand_eq_ok {c : Cfg} {cmd : Cmd} {i : Instr} :
    decodeCommand c cmd = .ok i ↔ decode cmd = .ok i ∧ i.wf c.nVoices = true := by
  unfold decodeCommand
  cases decode cmd with
  | error e => simp
  | ok j =>
    dsimp only
    by_cases hj : j.wf c.nVoices = true
    · rw [if_pos hj]
      exact ⟨fun h => by cases h; exact ⟨rfl, hj⟩, fun h => by cases h.1; rfl⟩
    · rw [if_neg hj]
      exact ⟨nofun, fun ⟨hji, hi⟩ => absurd (by cases hji; exact hi) hj⟩

theorem fetch_of_scheduled {s : State} {cmd : Cmd} {rest : List Cmd} (hwf : s.cfg.wf = true)
    (hc : s.cmds = cmd :: rest) :
    fetch s = (decodeCommand s.cfg cmd).map fun i => (i, s.setSchedule rest s.turn) := by
  rw [fetch, if_pos hwf, hc]
  dsimp only
  cases decodeCommand s.cfg cmd <;> rfl

theorem fetch_of_unscheduled {s : State} (hwf : s.cfg.wf = true) (hc : s.cmds = []) :
    fetch s = .ok (ownStep s, s.setSchedule [] (s.turn + 1)) := by
  rw [fetch, if_pos hwf, hc]

theorem step_of_unscheduled {s : State} (hwf : s.cfg.wf = true) (hc : s.cmds = []) :
    step s = exec (ownStep s) (s.setSchedule [] (s.turn + 1)) := by
  rw [step, fetch_of_unscheduled hwf hc]

theorem step_of_scheduled_ok {s : State} {cmd : Cmd} {rest : List Cmd} {i : Instr} (hwf : s.cfg.wf = true)
    (hc : s.cmds = cmd :: rest) (hi : decodeCommand s.cfg cmd = .ok i) :
    step s = exec i (s.setSchedule rest s.turn) := by
  rw [step, fetch_of_scheduled hwf hc, hi]
  rfl

theorem step_of_scheduled_error {s : State} {cmd : Cmd} {rest : List Cmd} {e : Refusal} (hwf : s.cfg.wf = true)
    (hc : s.cmds = cmd :: rest) (he : decodeCommand s.cfg cmd = .error e) : step s = .refused e := by
  rw [step, fetch_of_scheduled hwf hc, he]
  rfl

/-- A step that answers a next state ran one instruction, on the state with some other schedule. -/
theorem step_eq_next {s t : State} (h : step s = .next t) :
    ∃ i cmds turn, exec i (s.setSchedule cmds turn) = .next t := by
  by_cases hwf : s.cfg.wf = true
  · cases hc : s.cmds with
    | nil => exact ⟨_, _, _, step_of_unscheduled hwf hc ▸ h⟩
    | cons cmd rest =>
      cases hd : decodeCommand s.cfg cmd with
      | ok i => exact ⟨_, _, _, step_of_scheduled_ok hwf hc hd ▸ h⟩
      | error e => rw [step_of_scheduled_error hwf hc hd] at h; cases h
  · rw [step, fetch, if_neg hwf] at h
    cases h

/-- Settles O4. -/
theorem stepRunsScheduledCommand : Obligations.StepRunsScheduledCommand :=
  fun _ _ _ _ hwf hc hd hi => step_of_scheduled_ok hwf hc (decodeCommand_eq_ok.mpr ⟨hd, hi⟩)

theorem decodeTableWord_eq_some {nbits w : Nat} {i : Instr} (h : decodeTableWord nbits w = some i) :
    ∃ cmd, tableCmd nbits w = some cmd ∧ decode cmd = .ok i := by
  unfold decodeTableWord at h
  cases hc : tableCmd nbits w with
  | none => rw [hc] at h; cases h
  | some cmd =>
    rw [hc] at h
    dsimp only at h
    cases hd : decode cmd with
    | error e => rw [hd] at h; cases h
    | ok j => rw [hd] at h; cases h; exact ⟨cmd, rfl, hd⟩

/-- Settles O5: the word is scheduled in front, and taking it off gives the state back. -/
theorem stepRunsTableWord : Obligations.StepRunsTableWord := by
  intro s nbits w i hwf hdec hi
  obtain ⟨cmd, hcmd, hd⟩ := decodeTableWord_eq_some hdec
  have hs : s.withFetchWord nbits w = schedule s cmd := by rw [State.withFetchWord, hcmd]
  rw [hs]
  exact step_of_scheduled_ok (s := schedule s cmd) hwf rfl (decodeCommand_eq_ok.mpr ⟨hd, hi⟩)

/-- Settles O6: the three stages of `ownStep`. -/
theorem stepWithoutSchedule : Obligations.StepWithoutSchedule := by
  intro s hwf hc
  have hstep : step s = exec (ownStep s) { s with turn := s.turn + 1 } := by
    rw [step_of_unscheduled hwf hc, State.setSchedule, ← hc]
  refine ⟨fun hp => ?_, fun hp ha => ?_, fun hp ha => ?_⟩
  · rw [hstep, ownStep, hp]; rfl
  · rw [hstep, ownStep, hp, ha]; rfl
  · rw [hstep, ownStep, hp, ha]
    simp only [Bool.not_true, Bool.false_eq_true, if_false]
    cases Config.schedule s.turn with
    | fillEngine => cases hf : s.fillState <;> simp [fillEngineStep, hf]
    | outputDevice => simp [outputDeviceStep, completionPending, ha]

/-- Settles O7. -/
theorem stepRefusesIllFormed : Obligations.StepRefusesIllFormed := by
  refine ⟨fun s hwf => ?_, fun s cmd rest e hwf hc hd => ?_, fun s cmd rest i hwf hc hd hi => ?_⟩
  · rw [step, fetch, hwf]; rfl
  · exact step_of_scheduled_error hwf hc (by rw [decodeCommand, hd])
  · exact step_of_scheduled_error hwf hc (by simp [decodeCommand, hd, hi])

/-! ### The enabling conditions -/

theorem enabled_fillchk {s : State} : enabled s .fillchk = true ↔ s.prefilled = true ∧ s.fillState = .check := by
  simp [enabled]

theorem enabled_fillfrm {s : State} : enabled s .fillfrm = true ↔ s.prefilled = true ∧ s.fillState = .writing := by
  simp [enabled]

theorem completionPending_iff {s : State} :
    completionPending s = true ↔ s.devActive = true ∧ s.devRd = s.cfg.bufferSize := by simp [completionPending]

theorem enabled_complete {s : State} :
    enabled s .complete = true ↔ s.devActive = true ∧ s.devRd = s.cfg.bufferSize := completionPending_iff

theorem enabled_devread {s : State} :
    enabled s .devread = true ↔ s.devActive = true ∧ s.devRd < s.cfg.bufferSize := by simp [enabled]

theorem enabled_prefill {s : State} : enabled s .prefill = true ↔ s.prefilled = false ∧ s.devActive = false := by
  simp [enabled]

theorem enabled_start {s : State} : enabled s .start = true ↔ s.prefilled = true ∧ s.devActive = false := by
  simp [enabled]

/-! ### Operands out of range -/

theorem symbolAt_eq_some {s : State} {v : Nat} {code : SymCode} : symbolAt s v = some code ↔
    ∃ p, readSong s.cfg s.timing.bar = some p ∧ readPattern s.cfg p v s.timing.tickOfBar = some code :=
  Option.bind_eq_some_iff

theorem execSymbol_of_illegal {code : SymCode} (h : legalSymbol code = false) (v : Nat) (s : State) :
    execSymbol v code s = .refused (.reservedSymbol code) := by
  simp only [legalSymbol, Bool.or_eq_false_iff, beq_eq_false_iff_ne, Bool.and_eq_false_iff, decide_eq_false_iff_not] at h
  obtain ⟨hblank, hdigit⟩ := h
  rw [execSymbol, if_neg hblank, if_neg (by omega)]

theorem scanVoice_of_symbol {p v : Nat} {s : State} {code : SymCode}
    (h : readPattern s.cfg p v s.timing.tickOfBar = some code) : scanVoice p v s = execSymbol v code s := by
  rw [scanVoice, h]

theorem trigScan_of_song {s : State} {p : Nat} (h : readSong s.cfg s.timing.bar = some p) :
    trigScan s = forEach (List.range s.cfg.nVoices) (scanVoice p) s := by
  rw [trigScan, h]

/-- The first symbol of the column stops the scan when it is outside the alphabet (R101). -/
theorem trigScan_of_illegal {s : State} {code : SymCode} (hn : 1 ≤ s.cfg.nVoices) (hs : symbolAt s 0 = some code)
    (hc : legalSymbol code = false) : trigScan s = .refused (.reservedSymbol code) := by
  obtain ⟨p, hp, hcode⟩ := symbolAt_eq_some.mp hs
  obtain ⟨n, hn⟩ : ∃ n, s.cfg.nVoices = n + 1 := ⟨s.cfg.nVoices - 1, by omega⟩
  rw [trigScan_of_song hp, hn, List.range_succ_eq_map, forEach_cons, scanVoice_of_symbol hcode,
    execSymbol_of_illegal hc, andThen_refused]

theorem voiceFetch_without_element {v : Nat} {s : State} {x : Voice} (hx : s.voices[v]? = some x)
    (he : readSample s.cfg x.sample x.pos = none) : voiceFetch v s = .fault (.outOfRange .sample) := by
  rw [voiceFetch, withVoice_of_some hx, he]

theorem voiceStep_without_table {v : Nat} {s : State} {x : Voice} (hx : s.voices[v]? = some x)
    (hk : s.cfg.samples.length ≤ x.sample) :
    voiceStep v s = if x.pos = 0 then .next s else .fault (.outOfRange .sample) := by
  have hlen : tableLen s.cfg x.sample = none := by simp [tableLen, hk]
  rw [voiceStep, withVoice_of_some hx, hlen]
  simp [Voice.idle]

theorem deviceRead_of_enabled {s : State} (h : enabled s .devread = true) :
    deviceRead s = loadFrame (streamSlot s) s.devRd s fun w => .next ((s.setCursor s.playing (s.devRd + 1)).emit w) :=
  guarded_of_enabled h _

/-- Settles O10: each access says what it answers outside its range. -/
theorem outOfRangeStops : Obligations.OutOfRangeStops := by
  refine ⟨fun s v w hv hw => ⟨?_, ?_⟩, fun s v x hx => ⟨fun htab => ?_, voiceStep_without_table hx⟩, fun s hbar => ?_,
    fun s code => trigScan_of_illegal, fun s hsw ha hrd hslot => ?_⟩
  · have stops : ∀ level, trigger v level s = .fault (.noSuchVoice v) :=
      fun level => withVoice_of_none (List.getElem?_eq_none hv) _
    simp only [List.forall_mem_cons, exec_hit1, exec_hit2, exec_hit3, exec_hit4, exec_hit5, exec_hit6, exec_hit7,
      exec_hit8, exec_hit9, stops, true_and]
    exact List.forall_mem_nil _
  · have stops : ∀ k, withVoice w.toNat s k = .fault (.noSuchVoice w.toNat) :=
      withVoice_of_none (List.getElem?_eq_none hw)
    simp only [List.forall_mem_cons, exec_vfetch, exec_vstep, exec_gain, exec_panmul, exec_mixv, voiceFetch, voiceStep,
      voiceGain, panMul, mixVoice, stops, true_and]
    exact List.forall_mem_nil _
  · have hnone : readSample s.cfg x.sample x.pos = none := by
      rw [readSample, Option.bind_eq_none_iff]
      exact fun table ht => List.getElem?_eq_none (htab table ht)
    exact voiceFetch_without_element hx hnone
  · have hnone : readSong s.cfg s.timing.bar = none := List.getElem?_eq_none hbar
    rw [exec_trigscan, trigScan, hnone]
  · rw [exec_devread, deviceRead_of_enabled (enabled_devread.mpr ⟨ha, hrd⟩), loadFrame, if_neg]
    simp [ringInRange, streamSlot, hsw, hslot]

/-! ### The steps of the ring controller -/

/-- Settles O36. -/
theorem fillchkChecksRing : Obligations.FillchkChecksRing :=
  fun _ hp hf => ⟨fun hfull => fillCheck_eq_next.mpr ⟨enabled_fillchk.mpr ⟨hp, hf⟩, .inl ⟨hfull, rfl⟩⟩,
    fun hfree => fillCheck_eq_next.mpr ⟨enabled_fillchk.mpr ⟨hp, hf⟩, .inr ⟨hfree, rfl⟩⟩⟩

/-- Settles O40. -/
theorem startHandsOverSlot : Obligations.StartHandsOverSlot :=
  fun _ hp ha => startDevice_eq_next.mpr ⟨enabled_start.mpr ⟨hp, ha⟩, rfl⟩

/-- Settles O41. -/
theorem completeRearmsDevice : Obligations.CompleteRearmsDevice :=
  fun _ ha hrd => completeSlot_eq_next.mpr ⟨enabled_complete.mpr ⟨ha, hrd⟩, rfl⟩

theorem streamSlot_lt {s : State} (hp : s.playing < s.cfg.nSlots) : streamSlot s < s.cfg.nSlots := by
  unfold streamSlot
  split
  · exact Nat.mod_lt _ (by omega)
  · exact hp

theorem ringInRange_device {s : State} (hp : s.playing < s.cfg.nSlots) (hrd : s.devRd < s.cfg.bufferSize) :
    ringInRange s.cfg (streamSlot s) s.devRd = true := by
  simp [ringInRange, streamSlot_lt hp, hrd]

/-- DEVREAD in an active device with words left (R226). -/
theorem deviceRead_of_active {s : State} (ha : s.devActive = true) (hrd : s.devRd < s.cfg.bufferSize)
    (hp : s.playing < s.cfg.nSlots) :
    deviceRead s = .next ((s.setCursor s.playing (s.devRd + 1)).emit (ringWord s (devicePlace s))) :=
  deviceRead_eq_next.mpr ⟨enabled_devread.mpr ⟨ha, hrd⟩, ringInRange_device hp hrd, rfl⟩

/-- Settles O42: the cursor's slot is inside RING under both settings of the switch. -/
theorem devreadEmitsWord : Obligations.DevreadEmitsWord := by
  rintro s slot ha hrd hp rfl
  exact deviceRead_of_active ha hrd hp

/-- Settles O43: each guard is the negation of its enabling condition. -/
theorem stepsStopWhenNotEnabled : Obligations.StepsStopWhenNotEnabled := by
  intro s
  refine ⟨fun h => ?_, fun h => ?_, fun h => ?_, fun h => ?_, fun h => ?_, fun h => ?_⟩
  · have hdis : enabled s .fillchk = false := by rcases h with h | h <;> simp [enabled, h]
    have hstop : fillCheck s = .fault (.notEnabled .fillchk) := guarded_of_disabled hdis _
    exact ⟨hstop, by rw [exec_fill, fillSlot, hstop, andThen_fault]⟩
  · have hdis : enabled s .fillfrm = false := by rcases h with h | h <;> simp [enabled, h]
    rw [exec_fillfrm, fillFrame, guarded_of_disabled hdis]
  · have hdis : enabled s .complete = false := by rcases h with h | h <;> simp [enabled, completionPending, h]
    rw [exec_complete, completeSlot, guarded_of_disabled hdis]
  · have hdis : enabled s .devread = false := by rcases h with h | h <;> simp [enabled, h]
    rw [exec_devread, deviceRead, guarded_of_disabled hdis]
  · have hdis : enabled s .prefill = false := by rcases h with h | h <;> simp [enabled, h]
    rw [exec_prefill, prefillRing, guarded_of_disabled hdis]
  · have hdis : enabled s .start = false := by rcases h with h | h <;> simp [enabled, h]
    rw [exec_start, startDevice, guarded_of_disabled hdis]

/-- Settles O49: `resetBlock` writes the table of R49. -/
theorem resetGivesTable : Obligations.ResetGivesTable :=
  fun s => ⟨resetBlock s, exec_reset s, rfl, rfl, rfl, rfl, rfl, rfl, rfl, rfl, rfl, Ring.read_nil, rfl, rfl, rfl, rfl,
    rfl, rfl⟩

end Sys2Proof.Machine

/-! The obligations about voices, gain and pan: the scan as its symbols, a voice's turn in the mix, the voice that stays
silent, and the bounds of the products. -/

namespace Sys2Proof.Machine

open Sys2Proof.Safety

/-! ### The scan as its symbols -/

theorem exec_of_decodeSym {v : Nat} {code : SymCode} {i : Instr} (h : decode (.sym v code) = .ok i) (s : State) :
    exec i s = execSymbol v code s := by
  have hcode : encode i = .sym v code := encode_of_decodeSym h
  cases i with
  | nohit | hit1 | hit2 | hit3 | hit4 | hit5 | hit6 | hit7 | hit8 | hit9 => cases hcode; rfl
  | _ => cases hcode

/-- A loop over a beginning of the voices is a trace when its turns are the trace's instructions. -/
theorem forEach_range_eq_runInstrs {body : Nat → State → Result} {is : List Instr} {s : State}
    (hbody : ∀ k u (hk : k < is.length), forEach (List.range k) body s = .next u → body k u = exec is[k] u) :
    forEach (List.range is.length) body s = runInstrs is s := by
  have beginning : ∀ k ≤ is.length, forEach (List.range k) body s = runInstrs (is.take k) s := by
    intro k hk
    induction k with
    | zero => rfl
    | succ k ih =>
      have ih := ih (by omega)
      have hk' : k < is.length := hk
      rw [List.range_succ, forEach_append, List.take_succ_eq_append_getElem hk', runInstrs_append, ← ih]
      cases hu : forEach (List.range k) body s with
      | next u =>
        rw [andThen_next, andThen_next, runInstrs_singleton, ← hbody k u hk' hu, forEach_cons]
        cases body k u <;> rfl
      | fault e => rfl
      | refused e => rfl
  simpa using beginning is.length le_rfl

/-- Settles O17: the scan's k-th turn and the trace's k-th instruction execute the same symbol, in a state whose position
and configuration the turns before left alone. -/
theorem trigscanIsItsSymbols : Obligations.TrigscanIsItsSymbols := by
  intro s is hwf hrange hcount hlen his
  obtain ⟨p, hp, -⟩ := symbol_exists hwf hrange
  rw [exec_trigscan, trigScan_of_song hp, ← hlen]
  refine forEach_range_eq_runInstrs fun k u hk hu => ?_
  have hsame : SameButMix s u := sameButMix_forEach (fun v u w hw => by
    obtain ⟨code, -, hsym⟩ := scanVoice_eq_next.mp hw
    exact execSymbol_sameButMix hsym) _ _ _ hu
  obtain ⟨code, hcode, hdec⟩ := his k is[k] (List.getElem?_eq_getElem hk)
  obtain ⟨q, hq, hread⟩ := symbolAt_eq_some.mp hcode
  obtain rfl : p = q := Option.some.inj (hp.symm.trans hq)
  rw [exec_of_decodeSym hdec, scanVoice_of_symbol (code := code)]
  rw [hsame.cfg, hsame.timing]
  exact hread

/-! ### A voice's operations one by one -/

theorem readSample_of_table {c : Cfg} {k i : Nat} {table : List Elem} {e : Elem} (ht : c.samples[k]? = some table)
    (he : table[i]? = some e) : readSample c k i = some e := by
  simp [readSample, ht, he]

/-- Settles O18. -/
theorem vfetchReadsElement : Obligations.VfetchReadsElement :=
  fun _ _ _ _ _ hx ht he => voiceFetch_eq_next.mpr ⟨_, _, hx, readSample_of_table ht he, rfl⟩

/-- Settles O23. -/
theorem panmulWeighsChannels : Obligations.PanmulWeighsChannels :=
  fun _ _ _ hx => panMul_eq_next.mpr ⟨_, hx, rfl⟩

/-- The bounds of R6 on the voices of a well-formed configuration. -/
theorem voiceCfg_bounds {c : Cfg} (h : c.wf = true) {y : VoiceCfg} (hy : y ∈ c.voices) :
    y.pan ≤ c.panMax ∧ y.volume ≤ 255 ∧ y.sample < c.samples.length := by
  simp only [Cfg.wf, Bool.and_eq_true] at h
  have hok := List.all_eq_true.mp h.2.2.1 y hy
  simp only [Bool.and_eq_true, decide_eq_true_eq] at hok
  exact hok

theorem voice_bounds {s : State} (h : MixReady s) {x : Voice} (hx : x ∈ s.voices) :
    x.pan ≤ s.cfg.panMax ∧ x.volume ≤ 255 ∧ x.sample < s.cfg.samples.length := by
  have hmem : staticOf x ∈ s.cfg.voices := h.voicesStatic ▸ List.mem_map_of_mem hx
  exact voiceCfg_bounds h.cfgWf hmem

theorem gain_le {s : State} (h : Inv s) {x : Voice} (hx : x ∈ s.voices) :
    x.emph + x.volume ≤ 255 + 8 * s.cfg.emphStep := by
  obtain ⟨j, hj, hemph⟩ := h.emphLevel x hx
  obtain ⟨-, hvol, -⟩ := voice_bounds (Inv.mixReady h) hx
  have : j * s.cfg.emphStep ≤ 8 * s.cfg.emphStep := Nat.mul_le_mul_right _ (by omega)
  omega

/-- Settles O22: the bound from `volume ≤ 255` and an emphasis of at most eight steps. -/
theorem gainAddsEmphasis : Obligations.GainAddsEmphasis :=
  fun _ _ _ hx => ⟨voiceGain_eq_next.mpr ⟨_, hx, rfl⟩, fun h => gain_le h (List.mem_of_getElem? hx)⟩

/-- A voice of a ready state reads an element of its table. -/
theorem readSample_exists {s : State} (h : MixReady s) {x : Voice} (hx : x ∈ s.voices) :
    ∃ e, readSample s.cfg x.sample x.pos = some e := by
  have hpos := h.posInTable x hx
  obtain ⟨-, -, hk⟩ := voice_bounds h hx
  have htab : s.cfg.samples[x.sample]? = some s.cfg.samples[x.sample] := List.getElem?_eq_getElem hk
  simp only [tableLen, htab, Option.map_some, Option.getD_some] at hpos
  exact ⟨_, readSample_of_table htab (List.getElem?_eq_getElem hpos)⟩

theorem abs_sext16_le (e : Elem) : |sext16 e| ≤ 32768 := by
  have hlo := BitVec.le_toInt e
  have hhi := BitVec.toInt_lt (x := e)
  norm_num at hlo hhi
  exact abs_le.mpr ⟨hlo, hhi.le⟩

/-- Magnitude of a product of gain, element and a pan weight (R173). -/
theorem abs_product_le {g G P : Nat} {e w : Int} (hg : g ≤ G) (he : |e| ≤ 32768) (hw0 : 0 ≤ w) (hw : w ≤ P) :
    |(g : Int) * e * w| ≤ G * 32768 * P := by
  rw [abs_mul, abs_mul, Nat.abs_cast, abs_of_nonneg hw0]
  have hg' : (g : Int) ≤ G := by exact_mod_cast hg
  have := mul_le_mul hg' he (abs_nonneg e) (by positivity)
  exact mul_le_mul this hw hw0 (by positivity)

/-- Settles O24: the three operations complete, and the products are gain times element times a weight in 0 .. PAN_MAX. -/
theorem productsBounded : Obligations.ProductsBounded := by
  intro s v x h hx
  have hmem := List.mem_of_getElem? hx
  obtain ⟨e, he⟩ := readSample_exists (Inv.mixReady h) hmem
  obtain ⟨hpan, -, -⟩ := voice_bounds (Inv.mixReady h) hmem
  have hgain := gain_le h hmem
  have habs := abs_sext16_le e
  have bound : ∀ w : Int, 0 ≤ w → w ≤ s.cfg.panMax →
      |((x.emph + x.volume : Nat) : Int) * sext16 e * w| ≤ (255 + 8 * s.cfg.emphStep) * 32768 * s.cfg.panMax := by
    intro w hw0 hw
    have := abs_product_le hgain habs hw0 hw
    push_cast at this ⊢
    exact this
  refine ⟨_, runInstrs_cons_eq_next.mpr ⟨_, voiceFetch_eq_next.mpr ⟨x, e, hx, he, rfl⟩,
    runInstrs_cons_eq_next.mpr ⟨_, voiceGain_eq_next.mpr ⟨x, hx, rfl⟩,
      runInstrs_cons_eq_next.mpr ⟨_, panMul_eq_next.mpr ⟨x, hx, rfl⟩, runInstrs_nil _⟩⟩⟩, ?_, ?_, ?_⟩
  · exact bound x.pan (by positivity) (by exact_mod_cast hpan)
  · exact bound (s.cfg.panMax - x.pan) (by omega) (by omega)
  · simp only [State.setTmp_tmp, State.setTmp_cfg]
    ring

/-! ### A voice's turn in the mix -/

/-- The state after voice v, which is x, has taken its whole turn in the mix (R188); `mixVoice_eq_next` ties it to MIXV. -/
def mixedVoice (v : Nat) (x : Voice) (s : State) : State :=
  { s with
    voices := s.voices.set v (steppedVoice s.cfg x)
    accL := wrapW s.cfg.accW (s.accL + leftOf s.cfg x)
    accR := wrapW s.cfg.accW (s.accR + rightOf s.cfg x)
    tmp := { s.tmp with elem := elementOf s.cfg x, gain := x.emph + x.volume,
                        prodL := leftOf s.cfg x, prodR := rightOf s.cfg x } }

theorem pos_lt_of_readSample {c : Cfg} {k i : Nat} {e : Elem} (h : readSample c k i = some e) :
    i < (tableLen c k).getD 0 := by
  obtain ⟨table, ht, he⟩ := Option.bind_eq_some_iff.mp h
  have hi := (List.getElem?_eq_some_iff.mp he).1
  simpa [tableLen, ht] using hi

/-- What MIXV can answer (R188, D13). -/
theorem mixVoice_eq_next {v : Nat} {s t : State} : mixVoice v s = .next t ↔ ∃ x, s.voices[v]? = some x ∧
    ((¬ x.sample < s.cfg.samples.length ∧ t = s) ∨
      (x.sample < s.cfg.samples.length ∧ x.pos < (tableLen s.cfg x.sample).getD 0 ∧ t = mixedVoice v x s)) := by
  constructor
  · intro h
    obtain ⟨x, hx, hturn⟩ := withVoice_eq_next.mp h
    refine ⟨x, hx, ?_⟩
    by_cases hk : x.sample < s.cfg.samples.length
    · rw [if_pos (show sampleValid s.cfg x = true from decide_eq_true hk)] at hturn
      obtain ⟨s1, hfetch, -⟩ := andThen_eq_next.mp hturn
      obtain ⟨y, e, hy, he, -⟩ := voiceFetch_eq_next.mp hfetch
      obtain rfl : x = y := Option.some.inj (hx.symm.trans hy)
      have hpos := pos_lt_of_readSample he
      have hmix := mixVoice_of_valid hx hk hpos
      rw [h] at hmix
      exact .inr ⟨hk, hpos, Host.Outcome.next.inj hmix⟩
    · rw [mixVoice_of_invalid hx hk] at h
      exact .inl ⟨hk, (Host.Outcome.next.inj h).symm⟩
  · rintro ⟨x, hx, ⟨hk, rfl⟩ | ⟨hk, hpos, rfl⟩⟩
    · exact mixVoice_of_invalid hx hk
    · exact mixVoice_of_valid hx hk hpos

/-- Settles O30: `mixVoice_of_valid` with the element and the table written out. -/
theorem mixvAccumulatesVoice : Obligations.MixvAccumulatesVoice := by
  refine fun s v x hx => ⟨fun table e ht he => ?_, fun hk => mixVoice_of_invalid hx (by omega)⟩
  have hk : x.sample < s.cfg.samples.length := (List.getElem?_eq_some_iff.mp ht).1
  have hel : elementOf s.cfg x = e.toInt := by simp [elementOf, ht, he]
  have hmix := mixVoice_of_valid hx hk (pos_lt_of_readSample (readSample_of_table ht he))
  rw [steppedVoice_of_table ht] at hmix
  simp only [leftOf, rightOf, if_pos hk, hel] at hmix
  exact hmix

theorem MixReady.voice {s : State} (h : MixReady s) {v : Nat} (hv : v < s.cfg.nVoices) :
    ∃ x, s.voices[v]? = some x :=
  ⟨_, List.getElem?_eq_getElem (h.voiceCount ▸ hv)⟩

/-- In a ready state every voice takes its whole turn, and the machine is ready for the next (R188). -/
theorem MixReady.mixVoice {s : State} (h : MixReady s) {v : Nat} {x : Voice} (hx : s.voices[v]? = some x) :
    mixVoice v s = .next (mixedVoice v x s) ∧ MixReady (mixedVoice v x s) := by
  have hmem := List.mem_of_getElem? hx
  refine ⟨mixVoice_of_valid hx (voice_bounds h hmem).2.2 (h.posInTable x hmem), h.cfgWf, h.timing, ?_, ?_⟩
  · exact (map_set_of_same staticOf hx (steppedVoice_static s.cfg x)).trans h.voicesStatic
  · intro y hy
    rcases List.mem_or_eq_of_mem_set hy with hy | rfl
    · exact h.posInTable y hy
    · exact steppedVoice_pos (h.posInTable x hmem)

/-! ### A hit played to its end -/

/-- The offset a voice that started at element 1 of a table of `len` elements has after j turns (R154). -/
def hitOffset (len j : Nat) : Nat := if j + 1 < len then j + 1 else 0

theorem hitOffset_succ (len j : Nat) : hitOffset len (j + 1) =
    if hitOffset len j = 0 then 0 else if hitOffset len j + 1 = len then 0 else hitOffset len j + 1 := by
  unfold hitOffset
  split_ifs <;> omega

/-- After j turns of the mix the voice stands at `hitOffset` and the machine is ready for another turn (R154). -/
theorem mixv_plays_hit {s : State} {v : VoiceField} {x : Voice} {table : List Elem} (h : MixReady s)
    (hx : s.voices[v.toNat]? = some x) (hpos : x.pos = 1) (ht : s.cfg.samples[x.sample]? = some table) (j : Nat) :
    ∃ t, runInstrs (List.replicate j (.mixv v)) s = .next t ∧ MixReady t ∧ t.cfg = s.cfg ∧
      t.voices[v.toNat]? = some { x with pos := hitOffset table.length j } := by
  induction j with
  | zero =>
    have hlt : 1 < table.length := by
      have := h.posInTable x (List.mem_of_getElem? hx)
      rwa [hpos, tableLen, ht] at this
    have hstart : hitOffset table.length 0 = x.pos := by rw [hitOffset, if_pos hlt, hpos]
    exact ⟨s, rfl, h, rfl, hstart ▸ hx⟩
  | succ j ih =>
    obtain ⟨u, hrun, hready, hcfg, hvoice⟩ := ih
    obtain ⟨hmix, hready'⟩ := hready.mixVoice hvoice
    refine ⟨_, ?_, hready', hcfg, ?_⟩
    · rw [List.replicate_succ', runInstrs_snoc hrun]
      exact hmix
    · have hlt := (List.getElem?_eq_some_iff.mp hvoice).1
      have hstep := steppedVoice_of_table (c := u.cfg) (x := { x with pos := hitOffset table.length j })
        (table := table) (hcfg ▸ ht)
      rw [hitOffset_succ]
      simp only [mixedVoice, List.getElem?_set_self hlt, hstep]

/-- Settles O20: by induction on the turns. -/
theorem hitPlaysItsTable : Obligations.HitPlaysItsTable := by
  intro s v x table j h hx hpos ht
  obtain ⟨u, hrun, hready, hcfg, hvoice⟩ := mixv_plays_hit (Inv.mixReady h) hx hpos ht j
  obtain ⟨e, he⟩ := readSample_exists hready (List.mem_of_getElem? hvoice)
  refine ⟨u.setTmp { u.tmp with elem := sext16 e }, _, e, ?_, hvoice, rfl, ?_, rfl⟩
  · rw [runInstrs_snoc hrun]
    exact voiceFetch_eq_next.mpr ⟨_, e, hvoice, he, rfl⟩
  · rw [readSample, hcfg, ht] at he
    exact he

/-! ### A voice that stays silent -/

/-- Voice v is idle with emphasis 0. -/
def SilentVoice (v : Nat) (xs : List Voice) : Prop := ∃ y, xs[v]? = some y ∧ y.pos = 0 ∧ y.emph = 0

theorem SilentVoice.set_other {v w : Nat} {xs : List Voice} (h : SilentVoice v xs) (hw : w ≠ v) (y : Voice) :
    SilentVoice v (xs.set w y) := by
  obtain ⟨x, hx, hidle⟩ := h
  exact ⟨x, by rw [List.getElem?_set_ne hw, hx], hidle⟩

/-- A voice whose row is blank in every grid of the song is never hit by the scan, and idle it is not stepped (R157). -/
theorem voicesInvariant_silent {c : Cfg} {v : Nat}
    (hblank : ∀ p ∈ c.song, ∀ grid row code, c.patterns[p]? = some grid → grid[v]? = some row → code ∈ row →
      code = 0x20) : VoicesInvariant c (SilentVoice v) where
  digit {p w tick code xs x} hp hcode hne _ _ hs := by
    refine hs.set_other ?_ _
    rintro rfl
    obtain ⟨grid, hgrid, hrow⟩ := Option.bind_eq_some_iff.mp hcode
    obtain ⟨row, hrow, htick⟩ := Option.bind_eq_some_iff.mp hrow
    exact hne (hblank p hp grid row code hgrid hrow (List.mem_of_getElem? htick))
  step {w len xs x} hx hpos _ hs := by
    refine hs.set_other ?_ _
    rintro rfl
    obtain ⟨y, hy, hidle, -⟩ := hs
    obtain rfl : x = y := Option.some.inj (hx.symm.trans hy)
    exact hpos hidle

/-- Settles O21: RESET leaves every voice idle; every other instruction keeps the voice silent because the scan and the
steps do. -/
theorem blankVoiceStaysSilent : Obligations.BlankVoiceStaysSilent := by
  intro i s t v x h hx hpos hemph hblank hsym hi
  by_cases hreset : i = .reset
  · subst hreset
    cases hi
    have hv : v < s.cfg.nVoices := (Inv.mixReady h).voiceCount ▸ (List.getElem?_eq_some_iff.mp hx).1
    exact ⟨Voice.ofCfg s.cfg.voices[v], by simp [resetBlock, List.getElem?_eq_getElem hv], rfl, rfl⟩
  · exact (voicesInvariant_silent hblank).exec rfl ⟨x, hx, hpos, hemph⟩ hsym hreset hi

end Sys2Proof.Machine

/-! The obligations about the mixer: the word of a frame does not depend on the accumulators' width, on the order of the
voices, or on anything but the Timing State, the Voice Bank and the configuration. -/

namespace Sys2Proof.Machine

open Sys2Proof.Safety

/-! ### The accumulators and the word -/

/-- Settles O25. -/
theorem accclrClears : Obligations.AccclrClears := exec_accclr

/-- Settles O26: each accumulator is the wrap of its sum. -/
theorem accaddWraps : Obligations.AccaddWraps :=
  fun s hW => ⟨accAdd s, exec_accadd s, rfl, wrapW_range hW _, wrapW_range hW _, two_pow_dvd_wrapW_sub _ _,
    two_pow_dvd_wrapW_sub _ _⟩

/-- PACK returns the word of the two accumulators (R187). -/
theorem packFrame_eq (s : State) :
    packFrame s = s.setTmp { s.tmp with frame := wordOf s.cfg s.accL s.accR } := by
  simp only [packFrame, frameOf, wordOf, channel_eq_fieldOf]

/-- Settles O27. -/
theorem packFloorsAndMasks : Obligations.PackFloorsAndMasks :=
  fun s => by rw [exec_pack, packFrame_eq]; rfl

/-- A channel's field depends on the sum modulo 2^ACC_W only (R190). -/
theorem fieldOf_wrapW {c : Cfg} (h : c.outShift + 16 ≤ c.accW) (x : Int) :
    fieldOf c (wrapW c.accW x) = fieldOf c x := by
  rw [← channel_eq_fieldOf, ← channel_eq_fieldOf, channel_wrapW h]

theorem wordOf_wrapW {c : Cfg} (h : c.outShift + 16 ≤ c.accW) (l r : Int) :
    wordOf c (wrapW c.accW l) (wrapW c.accW r) = wordOf c l r := by
  simp only [wordOf, fieldOf_wrapW h]

/-- Settles O28. -/
theorem widthIndependence : Obligations.WidthIndependence := by
  intro s l r hw hl hr
  have hword : wordOf s.cfg s.accL s.accR = wordOf s.cfg l r := by rw [hl, hr, wordOf_wrapW hw]
  rw [exec_pack, packFrame_eq, hword]
  rfl

theorem leftHalf_wordOf (c : Cfg) (l r : Int) : leftHalf c (wordOf c l r) = fieldOf c l := by
  unfold leftHalf wordOf
  split
  · exact BitVec.extractLsb'_append_eq_left
  · exact BitVec.extractLsb'_append_eq_right

theorem rightHalf_wordOf (c : Cfg) (l r : Int) : rightHalf c (wordOf c l r) = fieldOf c r := by
  unfold rightHalf wordOf
  split
  · exact BitVec.extractLsb'_append_eq_right
  · exact BitVec.extractLsb'_append_eq_left

/-- A channel's field, read as signed, is the floor exactly when the floor has 16 bits, that is when the sum is in range
(R191). -/
theorem fieldOf_toInt_eq_iff (c : Cfg) (x : Int) : (fieldOf c x).toInt = Int.fdiv x (2 ^ c.outShift) ↔
    -(2 : Int) ^ (c.outShift + 15) ≤ x ∧ x < (2 : Int) ^ (c.outShift + 15) := by
  have hpos : (0 : Int) < 2 ^ c.outShift := by positivity
  have hwrap : (fieldOf c x).toInt = wrapW 16 (x / 2 ^ c.outShift) := by
    rw [fieldOf, BitVec.toInt_ofInt, Int.fdiv_eq_ediv_of_nonneg _ hpos.le, wrapW]
  rw [hwrap, Int.fdiv_eq_ediv_of_nonneg _ hpos.le, wrapW_eq_self_iff (by decide), SignedRange,
    Int.le_ediv_iff_mul_le hpos, Int.ediv_lt_iff_lt_mul hpos, Nat.add_comm c.outShift, pow_add, neg_mul]

/-- Settles O29: PACK's halves are the fields of the exact sums. -/
theorem overloadWrapsOutsideRange : Obligations.OverloadWrapsOutsideRange := by
  intro s l r hw hl hr
  refine ⟨_, widthIndependence s l r hw hl hr, ?_, ?_⟩
  · rw [leftHalf_wordOf]
    exact fieldOf_toInt_eq_iff _ _
  · rw [rightHalf_wordOf]
    exact fieldOf_toInt_eq_iff _ _

/-! ### GENFRAME's result -/

/-- Settles O31: `genFrame_spec` says it of every ready state. -/
theorem genframeReturnsFrame : Obligations.GenframeReturnsFrame :=
  fun _ h => genFrame_spec (Inv.mixReady h)

theorem elementOf_of_silent {c : Cfg} {x : Voice} (hidle : x.pos = 0)
    (hzero : ∀ table, c.samples[x.sample]? = some table → table[0]? = some 0) : elementOf c x = 0 := by
  cases ht : c.samples[x.sample]? with
  | none => simp [elementOf, ht]
  | some table => simp [elementOf, ht, hidle, hzero table ht]

theorem wordOf_zero (c : Cfg) : wordOf c 0 0 = 0 := by
  have hfield : fieldOf c 0 = 0 := by simp [fieldOf]
  unfold wordOf
  rw [hfield]
  split <;> rfl

/-- Settles O34: every product is 0, so both sums are. -/
theorem silenceIsZeroWord : Obligations.SilenceIsZeroWord := by
  intro s h hidle hzero
  obtain ⟨t, ht, -, -, -, -, hword⟩ := genFrame_spec (Inv.mixReady h)
  have hel : ∀ x ∈ voicesAtFrame s, elementOf s.cfg x = 0 :=
    fun x hx => elementOf_of_silent (hidle x hx) (hzero x hx)
  have hleft : leftSum s.cfg (voicesAtFrame s) = 0 := by
    refine List.sum_eq_zero fun y hy => ?_
    obtain ⟨x, hx, rfl⟩ := List.mem_map.mp hy
    simp [leftOf, hel x hx]
  have hright : rightSum s.cfg (voicesAtFrame s) = 0 := by
    refine List.sum_eq_zero fun y hy => ?_
    obtain ⟨x, hx, rfl⟩ := List.mem_map.mp hy
    simp [rightOf, hel x hx]
  rw [hleft, hright, wordOf_zero] at hword
  exact ⟨t, ht, hword⟩

/-! ### GENFRAME as a trace -/

/-- A loop is the trace of its turns where each turn is an instruction. -/
theorem forEach_eq_runInstrs {body : Nat → State → Result} {f : Nat → Instr} {xs : List Nat}
    (h : ∀ x ∈ xs, ∀ s, exec (f x) s = body x s) (s : State) : forEach xs body s = runInstrs (xs.map f) s := by
  induction xs generalizing s with
  | nil => rfl
  | cons x xs ih =>
    have hrest : forEach xs body = runInstrs (xs.map f) :=
      funext fun u => ih (fun y hy => h y (List.mem_cons_of_mem x hy)) u
    rw [forEach_cons, hrest, List.map_cons, runInstrs, h x List.mem_cons_self]

/-- Settles O32: the loop over at most 256 voices is a trace of MIXVs, since the voice field holds every voice number. -/
theorem genframeIsItsOperations : Obligations.GenframeIsItsOperations := by
  intro s hn
  have hmix : forEach (List.range s.cfg.nVoices) mixVoice
      = runInstrs ((List.range s.cfg.nVoices).map fun v => Instr.mixv (BitVec.ofNat 8 v)) := by
    refine funext (forEach_eq_runInstrs fun v hv u => ?_)
    have hv' : v < s.cfg.nVoices := List.mem_range.mp hv
    rw [exec_mixv, BitVec.toNat_ofNat, Nat.mod_eq_of_lt (by omega)]
  have hmixed : runInstrs (.accclr :: ((List.range s.cfg.nVoices).map (fun v => Instr.mixv (BitVec.ofNat 8 v))
      ++ [.pack])) = fun u => andThen (forEach (List.range s.cfg.nVoices) mixVoice (accClear u)) fun w =>
        .next (packFrame w) := by
    funext u
    rw [runInstrs, exec_accclr, andThen_next, runInstrs_append, hmix]
    rfl
  have hops : frameOperations s.cfg s.timing = .tickq :: ((if s.timing.sampleOfTick = 0 then [.trigscan] else []) ++
      .accclr :: ((List.range s.cfg.nVoices).map (fun v => Instr.mixv (BitVec.ofNat 8 v)) ++ [.pack])) := by
    simp [frameOperations]
  rw [hops, runInstrs, exec_tickq, andThen_next, runInstrs_append, hmixed, exec_genframe, genFrame]
  by_cases ht : s.timing.sampleOfTick = 0
  · rw [if_pos ht, runInstrs_singleton, exec_trigscan, if_pos (by simpa [tickStart] using ht)]
  · rw [if_neg ht, runInstrs_nil, if_neg (by simpa [tickStart] using ht)]

/-! ### GENFRAME reads only its inputs -/

/-- What GENFRAME reads: the configuration, the Timing State and the Voice Bank (R195). -/
structure SameInputs (s t : State) : Prop where
  cfg : s.cfg = t.cfg
  timing : s.timing = t.timing
  voices : s.voices = t.voices

/-- The inputs and the accumulators, which the mix writes. -/
structure SameMix (s t : State) : Prop extends SameInputs s t where
  accL : s.accL = t.accL
  accR : s.accR = t.accR

/-- A body that answers related states from related states does so in a loop. -/
theorem forEach_simulates {R : State → State → Prop} {body : Nat → State → Result}
    (hb : ∀ x s t s', R s t → body x s = .next s' → ∃ t', body x t = .next t' ∧ R s' t') (xs : List Nat)
    {s t s' : State} (h : R s t) (hs : forEach xs body s = .next s') :
    ∃ t', forEach xs body t = .next t' ∧ R s' t' := by
  induction xs generalizing s t with
  | nil => cases hs; exact ⟨t, rfl, h⟩
  | cons x xs ih =>
    obtain ⟨u, hu, hs⟩ := andThen_eq_next.mp hs
    obtain ⟨w, hw, hR⟩ := hb x s t u h hu
    obtain ⟨t', ht', hR'⟩ := ih hR hs
    exact ⟨t', andThen_eq_next.mpr ⟨w, hw, ht'⟩, hR'⟩

theorem SameInputs.execSymbol {v : Nat} {code : SymCode} {s t s' : State} (h : SameInputs s t)
    (hs : execSymbol v code s = .next s') : ∃ t', execSymbol v code t = .next t' ∧ SameInputs s' t' := by
  unfold Machine.execSymbol at hs ⊢
  split at hs
  · next hblank => cases hs; exact ⟨t, if_pos hblank, h⟩
  · next hblank =>
    rw [if_neg hblank]
    split at hs
    · next hdigit =>
      obtain ⟨x, hx, rfl⟩ := trigger_eq_next.mp hs
      rw [if_pos hdigit]
      refine ⟨_, trigger_eq_next.mpr ⟨x, h.voices ▸ hx, rfl⟩, h.cfg, h.timing, ?_⟩
      simp only [State.setVoice, State.setVoices_voices, h.voices, h.cfg]
    · cases hs

theorem SameInputs.trigScan {s t s' : State} (h : SameInputs s t) (hs : trigScan s = .next s') :
    ∃ t', trigScan t = .next t' ∧ SameInputs s' t' := by
  obtain ⟨p, hp, hscan⟩ := trigScan_eq_next.mp hs
  obtain ⟨t', ht', hR⟩ := forEach_simulates (R := SameInputs) (fun v a b a' hab ha => by
    obtain ⟨code, hcode, hsym⟩ := scanVoice_eq_next.mp ha
    obtain ⟨b', hb', hR⟩ := hab.execSymbol hsym
    exact ⟨b', scanVoice_eq_next.mpr ⟨code, hab.cfg ▸ hab.timing ▸ hcode, hb'⟩, hR⟩) _ h hscan
  exact ⟨t', trigScan_eq_next.mpr ⟨p, h.cfg ▸ h.timing ▸ hp, h.cfg ▸ ht'⟩, hR⟩

theorem SameMix.mixVoice {v : Nat} {s t s' : State} (h : SameMix s t) (hs : mixVoice v s = .next s') :
    ∃ t', mixVoice v t = .next t' ∧ SameMix s' t' := by
  obtain ⟨x, hx, ⟨hk, rfl⟩ | ⟨hk, hpos, rfl⟩⟩ := mixVoice_eq_next.mp hs
  · exact ⟨t, mixVoice_eq_next.mpr ⟨x, h.voices ▸ hx, .inl ⟨h.cfg ▸ hk, rfl⟩⟩, h⟩
  · refine ⟨_, mixVoice_eq_next.mpr ⟨x, h.voices ▸ hx, .inr ⟨h.cfg ▸ hk, h.cfg ▸ hpos, rfl⟩⟩, ⟨h.cfg, h.timing, ?_⟩, ?_, ?_⟩
    · simp only [mixedVoice, h.voices, h.cfg]
    · simp only [mixedVoice, h.accL, h.cfg]
    · simp only [mixedVoice, h.accR, h.cfg]

/-- Settles O33: the trigger scan sees the inputs alone, clearing makes the accumulators agree, and the mix keeps them in
agreement. -/
theorem genframeReadsOnlyItsInputs : Obligations.GenframeReadsOnlyItsInputs := by
  intro s t s' hcfg htim hvoices hs
  obtain ⟨u, w, htrig, hmix, rfl⟩ := genFrame_eq_next.mp hs
  have hstart : SameInputs (tickQuery s) (tickQuery t) := ⟨hcfg, htim, hvoices⟩
  have htick : tickStart s = tickStart t := by rw [tickStart, htim, tickStart]
  obtain ⟨u', htrig', hu⟩ : ∃ u', (if tickStart t then trigScan (tickQuery t) else .next (tickQuery t)) = .next u' ∧
      SameInputs u u' := by
    rw [htick] at htrig
    split at htrig
    · next ht => rw [if_pos ht]; exact hstart.trigScan htrig
    · next ht => cases htrig; rw [if_neg ht]; exact ⟨_, rfl, hstart⟩
  have hclear : SameMix (accClear u) (accClear u') := ⟨⟨hu.cfg, hu.timing, hu.voices⟩, rfl, rfl⟩
  obtain ⟨w', hmix', hw⟩ := forEach_simulates (fun _ _ _ _ => SameMix.mixVoice) _ hclear hmix
  refine ⟨packFrame w', genFrame_eq_next.mpr ⟨u', w', htrig', hcfg ▸ hmix', rfl⟩, hw.voices.symm, ?_, hw.accL.symm,
    hw.accR.symm⟩
  rw [packFrame_eq, packFrame_eq, hw.cfg, hw.accL, hw.accR]
  rfl

/-! ### The order of the voices -/

/-- The sum of a voice's products over a list of voice numbers. -/
def sumAt (f : Voice → Int) (xs : List Voice) (vs : List VoiceField) : Int :=
  (vs.map fun v => ((xs[v.toNat]?).map f).getD 0).sum

/-- The Voice Bank with the listed voices stepped. -/
def stepAt (c : Cfg) (xs : List Voice) (vs : List VoiceField) : List Voice :=
  xs.mapIdx fun k x => if k ∈ vs.map BitVec.toNat then steppedVoice c x else x

theorem sumAt_perm (f : Voice → Int) (xs : List Voice) {vs ws : List VoiceField} (h : vs.Perm ws) :
    sumAt f xs vs = sumAt f xs ws := (h.map _).sum_eq

theorem stepAt_perm (c : Cfg) (xs : List Voice) {vs ws : List VoiceField} (h : vs.Perm ws) :
    stepAt c xs vs = stepAt c xs ws := by
  unfold stepAt
  simp only [(h.map BitVec.toNat).mem_iff]

theorem toNat_notMem {v : VoiceField} {vs : List VoiceField} (h : v ∉ vs) : v.toNat ∉ vs.map BitVec.toNat := by
  simp only [List.mem_map, not_exists, not_and]
  intro w hw hwv
  exact h (BitVec.eq_of_toNat_eq hwv ▸ hw)

theorem sumAt_set {f : Voice → Int} {xs : List Voice} {v : VoiceField} {vs : List VoiceField} (h : v ∉ vs) (y : Voice) :
    sumAt f (xs.set v.toNat y) vs = sumAt f xs vs := by
  unfold sumAt
  congr 1
  refine List.map_congr_left fun w hw => ?_
  have hne : v.toNat ≠ w.toNat := fun he => h (BitVec.eq_of_toNat_eq he ▸ hw)
  rw [List.getElem?_set_ne hne]

theorem sumAt_cons {f : Voice → Int} {xs : List Voice} {v : VoiceField} {x : Voice} (vs : List VoiceField)
    (hx : xs[v.toNat]? = some x) : sumAt f xs (v :: vs) = f x + sumAt f xs vs := by
  simp [sumAt, hx]

theorem stepAt_nil (c : Cfg) (xs : List Voice) : stepAt c xs [] = xs :=
  List.ext_getElem (by simp [stepAt]) fun k hk hk' => by simp [stepAt]

theorem stepAt_cons {c : Cfg} {xs : List Voice} {v : VoiceField} {x : Voice} {vs : List VoiceField}
    (hx : xs[v.toNat]? = some x) (h : v ∉ vs) :
    stepAt c (xs.set v.toNat (steppedVoice c x)) vs = stepAt c xs (v :: vs) := by
  have hv := toNat_notMem h
  obtain ⟨hlt, hget⟩ := List.getElem?_eq_some_iff.mp hx
  apply List.ext_getElem (by simp [stepAt])
  intro k hk hk'
  simp only [stepAt, List.getElem_mapIdx, List.map_cons, List.mem_cons, List.getElem_set]
  by_cases hkv : v.toNat = k
  · subst hkv
    simp [hv, hget]
  · simp [hkv, Ne.symm hkv]

/-- The mix of distinct voices, in any order: each is stepped once, and the accumulators hold the wrapped sums (R192). -/
theorem mix_of_distinct {vs : List VoiceField} (hnodup : vs.Nodup) {s : State} (h : MixReady s)
    (hvs : ∀ v ∈ vs, v.toNat < s.cfg.nVoices) {l r : Int} (hl : s.accL = wrapW s.cfg.accW l)
    (hr : s.accR = wrapW s.cfg.accW r) :
    ∃ t, runInstrs (vs.map Instr.mixv) s = .next t ∧ t.cfg = s.cfg ∧ t.voices = stepAt s.cfg s.voices vs ∧
      t.accL = wrapW s.cfg.accW (l + sumAt (leftOf s.cfg) s.voices vs) ∧
      t.accR = wrapW s.cfg.accW (r + sumAt (rightOf s.cfg) s.voices vs) := by
  induction vs generalizing s l r with
  | nil => exact ⟨s, rfl, rfl, (stepAt_nil _ _).symm, by simpa [sumAt] using hl, by simpa [sumAt] using hr⟩
  | cons v vs ih =>
    obtain ⟨hv, hnodup⟩ := List.nodup_cons.mp hnodup
    obtain ⟨x, hx⟩ := h.voice (hvs v List.mem_cons_self)
    obtain ⟨hmix, hready⟩ := h.mixVoice hx
    obtain ⟨t, hrun, hcfg, hvoices, hL, hR⟩ := ih (s := mixedVoice v.toNat x s) hnodup hready
      (fun w hw => hvs w (List.mem_cons_of_mem v hw)) (l := l + leftOf s.cfg x) (r := r + rightOf s.cfg x)
      (by simp only [mixedVoice, hl, wrapW_wrapW_add]) (by simp only [mixedVoice, hr, wrapW_wrapW_add])
    refine ⟨t, runInstrs_cons_eq_next.mpr ⟨_, hmix, hrun⟩, hcfg, ?_, ?_, ?_⟩
    · rw [hvoices]
      exact stepAt_cons hx hv
    · rw [hL, sumAt_cons vs hx, ← add_assoc]
      simp only [mixedVoice, sumAt_set hv]
    · rw [hR, sumAt_cons vs hx, ← add_assoc]
      simp only [mixedVoice, sumAt_set hv]

/-- Clearing, mixing distinct voices and packing completes, with a result that depends on the set of the voices only. -/
theorem clearMixPack_of_distinct {vs : List VoiceField} (hnodup : vs.Nodup) {s : State} (h : MixReady s)
    (hvs : ∀ v ∈ vs, v.toNat < s.cfg.nVoices) :
    ∃ t, runInstrs (.accclr :: (vs.map Instr.mixv ++ [.pack])) s = .next t ∧
      t.voices = stepAt s.cfg s.voices vs ∧
      t.accL = wrapW s.cfg.accW (sumAt (leftOf s.cfg) s.voices vs) ∧
      t.accR = wrapW s.cfg.accW (sumAt (rightOf s.cfg) s.voices vs) ∧
      t.tmp.frame = wordOf s.cfg t.accL t.accR := by
  have hclear : MixReady (accClear s) := ⟨h.cfgWf, h.timing, h.voicesStatic, h.posInTable⟩
  obtain ⟨t, hrun, hcfg, hvoices, hL, hR⟩ := mix_of_distinct hnodup hclear hvs (l := 0) (r := 0)
    (by simp [wrapW]) (by simp [wrapW])
  rw [zero_add] at hL hR
  refine ⟨packFrame t, runInstrs_cons_eq_next.mpr ⟨_, exec_accclr s, (runInstrs_snoc hrun).trans (exec_pack t)⟩,
    hvoices, hL, hR, ?_⟩
  rw [packFrame_eq, hcfg]
  rfl

/-- Settles O35: both orders step the same voices and add up the same products. -/
theorem voiceOrderIrrelevant : Obligations.VoiceOrderIrrelevant := by
  intro s vs h hnodup hvs ws hperm
  obtain ⟨t, ht, htv, htl, htr, htf⟩ := clearMixPack_of_distinct hnodup (Inv.mixReady h) hvs
  obtain ⟨u, hu, huv, hul, hur, huf⟩ := clearMixPack_of_distinct (hperm.nodup_iff.mp hnodup) (Inv.mixReady h)
    fun w hw => hvs w (hperm.mem_iff.mpr hw)
  have hl : t.accL = u.accL := by rw [htl, hul, sumAt_perm _ _ hperm]
  have hr : t.accR = u.accR := by rw [htr, hur, sumAt_perm _ _ hperm]
  exact ⟨t, u, ht, hu, by rw [htv, huv, stepAt_perm _ _ hperm], hl, hr, by rw [htf, huf, hl, hr]⟩

end Sys2Proof.Machine

/-! The invariant in two halves, the data path's and the ring controller's, each a predicate of just the fields it speaks
of; the invariant at reset; and that every instruction keeps the data path's half. -/

namespace Sys2Proof.Machine

open Sys2Proof.Safety

/-! ### The two halves of the invariant -/

/-- The data path's half of `Inv`: the configuration, the position, the voices, the accumulators. -/
structure DataInv (c : Cfg) (t : Timing) (xs : List Voice) (l r : Int) : Prop where
  cfgWf : c.wf = true
  timing : TimingInRange c t
  voicesStatic : xs.map staticOf = c.voices
  posInTable : ∀ x ∈ xs, x.pos < (tableLen c x.sample).getD 0
  emphLevel : ∀ x ∈ xs, ∃ j < 9, x.emph = j * c.emphStep
  accLRange : SignedRange c.accW l
  accRRange : SignedRange c.accW r

/-- RING's form in `Inv`: canonical, and only words of RING are listed. -/
structure RingOk (c : Cfg) (r : Ring) : Prop where
  wf : r.wf
  inside : ∀ p ∈ r, p.1 < c.nSlots * c.bufferSize

/-- The ring controller's half of `Inv`: the indices, the fill micro-state, the device's cursor, the boot order, RING. -/
structure ControlInv (c : Cfg) (playing filling : Nat) (fs : FillState) (frameIdx : Nat) (active : Bool) (devRd : Nat)
    (prefilled : Bool) (ring : Ring) : Prop where
  playingInRange : playing < c.nSlots
  fillingInRange : filling < c.nSlots
  frameInRange : frameIdx < c.bufferSize
  checkFrame : fs = .check → frameIdx = 0
  cursorInRange : devRd ≤ c.bufferSize
  cursorIdle : active = false → devRd = 0
  playingIdle : active = false → playing = c.nSlots - 1
  activePrefilled : active = true → prefilled = true
  beforePrefill : prefilled = false → filling = 0 ∧ fs = .check
  ringOk : RingOk c ring
  ringWritten : prefilled = true → ∀ a < c.nSlots * c.bufferSize, (ring.read a).isSome

abbrev DataOk (s : State) : Prop := DataInv s.cfg s.timing s.voices s.accL s.accR

abbrev ControlOk (s : State) : Prop :=
  ControlInv s.cfg s.playing s.filling s.fillState s.frameIdx s.devActive s.devRd s.prefilled s.ring

theorem inv_iff {s : State} : Inv s ↔ DataOk s ∧ ControlOk s :=
  ⟨fun h => ⟨⟨h.cfgWf, h.timing, h.voicesStatic, h.posInTable, h.emphLevel, h.accLRange, h.accRRange⟩,
    ⟨h.playingInRange, h.fillingInRange, h.frameInRange, h.checkFrame, h.cursorInRange, h.cursorIdle, h.playingIdle,
      h.activePrefilled, h.beforePrefill, ⟨h.ringWf, h.ringInside⟩, h.ringWritten⟩⟩,
  fun ⟨d, k⟩ => ⟨d.cfgWf, d.timing, d.voicesStatic, d.posInTable, d.emphLevel, d.accLRange, d.accRRange,
    k.playingInRange, k.fillingInRange, k.frameInRange, k.checkFrame, k.cursorInRange, k.cursorIdle, k.playingIdle,
    k.activePrefilled, k.beforePrefill, k.ringOk.wf, k.ringOk.inside, k.ringWritten⟩⟩

theorem DataInv.mixReady {s : State} (h : DataOk s) : MixReady s :=
  ⟨h.cfgWf, h.timing, h.voicesStatic, h.posInTable⟩

/-- The schedule is no part of the invariant. -/
theorem inv_setSchedule {s : State} (h : Inv s) (cmds : List Cmd) (turn : Nat) : Inv (s.setSchedule cmds turn) :=
  inv_iff.mpr (inv_iff (s := s).mp h)

/-- The gaps still to come are no part of the invariant. -/
theorem inv_setGaps {s : State} (h : Inv s) (gaps : List Nat) : Inv (s.setGaps gaps) :=
  inv_iff.mpr (inv_iff (s := s).mp h)

/-! ### The bounds of a well-formed configuration -/

/-- The constants of R6 that the ring controller and the position rest on. -/
structure CfgBounds (c : Cfg) : Prop where
  barLen : 1 ≤ c.barLen
  loopBars : 1 ≤ c.loopBars
  samplesPerTick : 1 ≤ c.samplesPerTick
  accW : c.outShift + 16 ≤ c.accW
  nSlots : 3 ≤ c.nSlots
  bufferSize : 1 ≤ c.bufferSize

theorem cfgBounds {c : Cfg} (h : c.wf = true) : CfgBounds c := by
  simp only [Cfg.wf, Cfg.constantsOk, Bool.and_eq_true, decide_eq_true_eq] at h
  obtain ⟨⟨-, hbar, hloop, -, -, hspt, -, hacc, hslots, hbuf⟩, -⟩ := h
  exact ⟨hbar, hloop, hspt, hacc, hslots, hbuf⟩

theorem accW_pos {c : Cfg} (h : c.wf = true) : 0 < c.accW := by
  have := (cfgBounds h).accW
  omega

/-! ### The invariant at reset -/

/-- The reset table of R49 satisfies the invariant, whatever the free draws of the accumulators and the fields the table
does not mention. -/
theorem inv_resetTable {s : State} (h : s.cfg.wf = true) (l r : Int) :
    Inv { s with
      timing := { bar := 0, tickOfBar := 0, sampleOfTick := 0 }
      voices := s.cfg.voices.map Voice.ofCfg
      accL := wrapW s.cfg.accW l
      accR := wrapW s.cfg.accW r
      playing := s.cfg.nSlots - 1
      filling := 0
      ring := []
      fillState := .check
      frameIdx := 0
      devActive := false
      devRd := 0
      prefilled := false } := by
  have hb := cfgBounds h
  refine inv_iff.mpr ⟨⟨h, ⟨hb.loopBars, hb.barLen, hb.samplesPerTick⟩, ?_, ?_, ?_, wrapW_range (accW_pos h) l,
      wrapW_range (accW_pos h) r⟩,
    ⟨?_, ?_, hb.bufferSize, fun _ => rfl, Nat.zero_le _, fun _ => rfl, fun _ => rfl, nofun, fun _ => ⟨rfl, rfl⟩,
      ⟨Ring.wf_nil, nofun⟩, nofun⟩⟩
  · exact (List.map_map ..).trans (List.map_id _)
  · intro x hx
    obtain ⟨y, hy, rfl⟩ := List.mem_map.mp hx
    exact Nat.lt_of_lt_of_le Nat.zero_lt_two (two_le_tableLen h (voiceCfg_bounds h hy).2.2)
  · intro x hx
    obtain ⟨y, -, rfl⟩ := List.mem_map.mp hx
    exact ⟨0, by decide, (Nat.zero_mul _).symm⟩
  · exact Nat.sub_lt (by have := hb.nSlots; omega) Nat.one_pos
  · exact Nat.lt_of_lt_of_le (Nat.succ_pos 2) hb.nSlots

theorem inv_resetBlock {s : State} (h : s.cfg.wf = true) : Inv (resetBlock s) :=
  inv_resetTable (s := { s with resets := s.resets + 1 }) h _ _

/-- Settles O52: the reset state is the reset table. -/
theorem invHoldsAtResetOfEveryCfg : Obligations.InvHoldsAtResetOfEveryCfg :=
  fun c h => inv_resetTable (s := State.resetWith c) h _ _

/-- Settles O51: the configuration of log 2 is well-formed. -/
theorem invHoldsAtReset : Obligations.InvHoldsAtReset :=
  invHoldsAtResetOfEveryCfg Config.device (by decide)

/-! ### The widths -/

theorem le_foldr_max {n : Nat} {ns : List Nat} (h : n ∈ ns) : n ≤ ns.foldr max 0 := by
  induction ns with
  | nil => cases h
  | cons m ns ih =>
    rcases List.mem_cons.mp h with rfl | h
    · exact Nat.le_max_left _ _
    · exact (ih h).trans (Nat.le_max_right _ _)

theorem tableLen_le_maxLen (c : Cfg) (k : Nat) : (tableLen c k).getD 0 ≤ maxLen c := by
  cases ht : c.samples[k]? with
  | none => simp [tableLen, ht]
  | some table =>
    rw [tableLen, ht]
    exact le_foldr_max (List.mem_map_of_mem (List.mem_of_getElem? ht))

/-- Settles O59: each register is below the bound whose `clog2` is its width. -/
theorem registersFitWidths : Obligations.RegistersFitWidths := by
  intro s h
  refine ⟨lt_two_pow_clog2 h.timing.1, lt_two_pow_clog2 h.timing.2.1, lt_two_pow_clog2 h.timing.2.2, fun x hx => ?_,
    h.accLRange, h.accRRange, lt_two_pow_clog2 h.playingInRange, lt_two_pow_clog2 h.fillingInRange,
    lt_two_pow_clog2 h.frameInRange, lt_two_pow_clog2 (Nat.lt_succ_of_le h.cursorInRange)⟩
  obtain ⟨hpan, hvol, hsample⟩ := voice_bounds (Inv.mixReady h) hx
  obtain ⟨j, hj, hemph⟩ := h.emphLevel x hx
  have hemph' : x.emph ≤ 8 * s.cfg.emphStep := hemph ▸ Nat.mul_le_mul_right _ (by omega)
  exact ⟨lt_two_pow_clog2 (Nat.lt_succ_of_le hpan), Nat.lt_of_le_of_lt hvol (by decide),
    lt_two_pow_clog2 (Nat.lt_succ_of_lt hsample),
    lt_two_pow_clog2 (Nat.lt_of_lt_of_le (h.posInTable x hx) (tableLen_le_maxLen _ _)),
    lt_two_pow_clog2 (Nat.lt_succ_of_le hemph')⟩

/-! ### The voices' part -/

/-- What `Inv` says of the Voice Bank (R26 to R33). -/
structure VoicesOk (c : Cfg) (xs : List Voice) : Prop where
  voicesStatic : xs.map staticOf = c.voices
  posInTable : ∀ x ∈ xs, x.pos < (tableLen c x.sample).getD 0
  emphLevel : ∀ x ∈ xs, ∃ j < 9, x.emph = j * c.emphStep

/-- Exchanging a voice for one with its static fields, an offset inside its table and one of the nine emphases. -/
theorem VoicesOk.set {c : Cfg} {xs : List Voice} {v : Nat} {x y : Voice} (h : VoicesOk c xs) (hx : xs[v]? = some x)
    (hstatic : staticOf y = staticOf x) (hpos : y.pos < (tableLen c y.sample).getD 0)
    (hemph : ∃ j < 9, y.emph = j * c.emphStep) : VoicesOk c (xs.set v y) := by
  refine ⟨(map_set_of_same staticOf hx hstatic).trans h.voicesStatic, fun z hz => ?_, fun z hz => ?_⟩
  · rcases List.mem_or_eq_of_mem_set hz with hz | rfl
    · exact h.posInTable z hz
    · exact hpos
  · rcases List.mem_or_eq_of_mem_set hz with hz | rfl
    · exact h.emphLevel z hz
    · exact hemph

/-- A hit of one of the nine levels, in a configuration whose tables have at least two elements (R140). -/
theorem VoicesOk.hit {c : Cfg} (hwf : c.wf = true) {xs : List Voice} {v level : Nat} {x : Voice} (h : VoicesOk c xs)
    (hx : xs[v]? = some x) (hlevel : level < 9) :
    VoicesOk c (xs.set v { x with pos := 1, emph := emphasis level c.emphStep }) := by
  refine h.set hx (by rfl) ?_ ⟨level, hlevel, rfl⟩
  have hpos := h.posInTable x (List.mem_of_getElem? hx)
  cases ht : c.samples[x.sample]? with
  | none => rw [tableLen, ht] at hpos; exact absurd hpos (Nat.not_lt_zero _)
  | some table => exact two_le_tableLen hwf (List.getElem?_eq_some_iff.mp ht).1

theorem voicesInvariant_ok {c : Cfg} (hwf : c.wf = true) : VoicesInvariant c (VoicesOk c) where
  digit {p v tick code xs x} _ _ _ hle hx h := h.hit hwf hx (by unfold levelOf; omega)
  step {v len xs x} hx _ hlen h := by
    have hpos := h.posInTable x (List.mem_of_getElem? hx)
    refine h.set hx (by rfl) ?_ (h.emphLevel x (List.mem_of_getElem? hx))
    simp only [hlen, Option.getD_some] at hpos ⊢
    split <;> omega

theorem DataInv.voicesOk {c : Cfg} {t : Timing} {xs : List Voice} {l r : Int} (h : DataInv c t xs l r) :
    VoicesOk c xs := ⟨h.voicesStatic, h.posInTable, h.emphLevel⟩

theorem DataInv.of_parts {c : Cfg} {t : Timing} {xs : List Voice} {l r : Int} (hwf : c.wf = true)
    (ht : TimingInRange c t) (hv : VoicesOk c xs) (hl : SignedRange c.accW l) (hr : SignedRange c.accW r) :
    DataInv c t xs l r :=
  ⟨hwf, ht, hv.voicesStatic, hv.posInTable, hv.emphLevel, hl, hr⟩

/-! ### Every instruction keeps the data path's half -/

theorem DataInv.genFrame {s t : State} (h : DataOk s) (ht : genFrame s = .next t) : DataOk t := by
  obtain ⟨t', ht', hsame, -, hl, hr, -⟩ := genFrame_spec h.mixReady
  obtain rfl : t = t' := Host.Outcome.next.inj (ht.symm.trans ht')
  have hvoices := (voicesInvariant_ok h.cfgWf).genFrame rfl h.voicesOk ht
  have hW := accW_pos h.cfgWf
  refine DataInv.of_parts (hsame.cfg ▸ h.cfgWf) ?_ (hsame.cfg ▸ hvoices) ?_ ?_
  · rw [hsame.cfg, hsame.timing]; exact h.timing
  · rw [hsame.cfg, hl]; exact wrapW_range hW _
  · rw [hsame.cfg, hr]; exact wrapW_range hW _

theorem DataInv.advance {s : State} (h : DataOk s) : DataOk (advance s) :=
  DataInv.of_parts h.cfgWf (Timing.advance_inRange h.timing) h.voicesOk h.accLRange h.accRRange

theorem DataInv.produceFrame {f : Nat} {s t : State} (h : DataOk s) (ht : produceFrame f s = .next t) : DataOk t := by
  obtain ⟨u, hgen, -, rfl⟩ := produceFrame_eq_next.mp ht
  exact DataInv.advance (s := u.setRing _) (DataInv.genFrame (t := u) h hgen)

theorem DataInv.fillFrame {s t : State} (h : DataOk s) (ht : fillFrame s = .next t) : DataOk t := by
  obtain ⟨-, u, hprod, rfl⟩ := fillFrame_eq_next.mp ht
  rw [countFrame_writes]
  exact DataInv.produceFrame (t := u) h hprod

theorem DataInv.gapThenFrame {s t : State} (h : DataOk s) (ht : gapThenFrame s = .next t) : DataOk t := by
  obtain ⟨u, hgap, hfrm⟩ := gapThenFrame_eq_next.mp ht
  refine DataInv.fillFrame (s := u) ?_ hfrm
  rw [deviceGap_keeps hgap]
  exact h

theorem DataInv.fillSlot {s t : State} (h : DataOk s) (ht : fillSlot s = .next t) : DataOk t := by
  obtain ⟨-, ⟨-, rfl⟩ | ⟨-, hloop⟩⟩ := fillSlot_eq_next.mp ht
  · exact h
  · exact forEach_keeps (P := DataOk) (fun _ _ _ => DataInv.gapThenFrame) _ (s.setFill .writing 0) _ h hloop

theorem DataInv.prefillSlot {s t : State} (h : DataOk s) (ht : prefillSlot s = .next t) : DataOk t := by
  obtain ⟨u, hloop, rfl⟩ := prefillSlot_eq_next.mp ht
  exact forEach_keeps (P := DataOk) (fun _ _ _ => DataInv.produceFrame) _ s u h hloop

theorem DataInv.prefillRing {s t : State} (h : DataOk s) (ht : prefillRing s = .next t) : DataOk t := by
  obtain ⟨-, u, hloop, rfl⟩ := prefillRing_eq_next.mp ht
  exact forEach_keeps (P := DataOk) (fun _ _ _ => DataInv.prefillSlot) _ s u h hloop

theorem DataInv.mixVoice {v : Nat} {s t : State} (h : DataOk s) (ht : mixVoice v s = .next t) : DataOk t := by
  have hvoices := (voicesInvariant_ok h.cfgWf).mixVoice rfl h.voicesOk ht
  obtain ⟨x, -, ⟨-, rfl⟩ | ⟨-, -, rfl⟩⟩ := mixVoice_eq_next.mp ht
  · exact h
  · exact DataInv.of_parts h.cfgWf h.timing hvoices (wrapW_range (accW_pos h.cfgWf) _) (wrapW_range (accW_pos h.cfgWf) _)

theorem signedRange_zero {W : Nat} : SignedRange W 0 := by
  have : (0 : Int) < 2 ^ (W - 1) := by positivity
  exact ⟨by omega, this⟩

theorem DataInv.symbol {i : Instr} {s t : State} (h : DataOk s) (hi : isSymbol i = true) (ht : exec i s = .next t) :
    DataOk t := by
  obtain hstay | ⟨v, level, hlevel, htrig⟩ := exec_symbol_cases hi
  · rw [hstay] at ht
    cases ht
    exact h
  · rw [htrig] at ht
    obtain ⟨x, hx, rfl⟩ := trigger_eq_next.mp ht
    exact DataInv.of_parts h.cfgWf h.timing (h.voicesOk.hit h.cfgWf hx hlevel) h.accLRange h.accRRange

/-- Every instruction keeps the data path's half of the invariant (R24, R32, R33, R34). -/
theorem DataInv.exec {i : Instr} {s t : State} (h : DataOk s) (ht : exec i s = .next t) : DataOk t := by
  have hW := accW_pos h.cfgWf
  cases i with
  | nohit v | hit1 v | hit2 v | hit3 v | hit4 v | hit5 v | hit6 v | hit7 v | hit8 v | hit9 v => exact h.symbol rfl ht
  | reset => cases ht; exact (inv_iff.mp (inv_resetBlock h.cfgWf)).1
  | advance => cases ht; exact h.advance
  | trigscan =>
    have hvoices := (voicesInvariant_ok h.cfgWf).trigScan rfl h.voicesOk ht
    rw [exec_writes ht]
    exact DataInv.of_parts h.cfgWf h.timing hvoices h.accLRange h.accRRange
  | vstep v =>
    have hvoices := (voicesInvariant_ok h.cfgWf).voiceStep rfl h.voicesOk ht
    rw [exec_writes ht]
    exact DataInv.of_parts h.cfgWf h.timing hvoices h.accLRange h.accRRange
  | accclr =>
    cases ht
    exact DataInv.of_parts h.cfgWf h.timing h.voicesOk signedRange_zero signedRange_zero
  | accadd =>
    cases ht
    exact DataInv.of_parts h.cfgWf h.timing h.voicesOk (wrapW_range hW _) (wrapW_range hW _)
  | mixv v => exact h.mixVoice ht
  | genframe => exact h.genFrame ht
  | fillfrm => exact h.fillFrame ht
  | fill => exact h.fillSlot ht
  | prefill => exact h.prefillRing ht
  | tickq | vfetch v | gain v | panmul v | pack | fillchk | complete | devread | start =>
    rw [exec_writes ht]
    exact h

end Sys2Proof.Machine

/-! The generated stream: what k frames leave, a machine in step with the stream, and PREFILL, which stores its first
N × B words. -/

namespace Sys2Proof.Machine

open Sys2Proof.Safety

/-! ### k frames generated -/

theorem framesTrace_succ (k : Nat) : framesTrace (k + 1) = framesTrace k ++ [.genframe, .advance] :=
  repeatTrace_succ k _

theorem runInstrs_frames_succ {s u w : State} {k : Nat} (hu : runInstrs (framesTrace k) s = .next u)
    (hw : genFrame u = .next w) : runInstrs (framesTrace (k + 1)) s = .next (advance w) := by
  rw [framesTrace_succ, runInstrs_append, hu, andThen_next]
  exact runInstrs_cons_eq_next.mpr ⟨w, hw, runInstrs_singleton _ _⟩

theorem generates_of_frames {s u w : State} {k : Nat} (hu : runInstrs (framesTrace k) s = .next u)
    (hw : genFrame u = .next w) : Generates s k w.tmp.frame :=
  ⟨w, (runInstrs_snoc hu).trans hw, rfl⟩

/-- From a ready state k frames complete, write what a frame works on and nothing else, and move the position by k modulo P
(R123, R124). -/
theorem frames_exist {s : State} (h : MixReady s) (k : Nat) :
    ∃ u, runInstrs (framesTrace k) s = .next u ∧ MixReady u ∧ u = transplant s u ∧
      positionNumber u.cfg u.timing = (positionNumber s.cfg s.timing + k) % period s.cfg := by
  induction k with
  | zero => exact ⟨s, rfl, h, rfl, (Nat.mod_eq_of_lt (positionNumber_lt_period h.timing)).symm⟩
  | succ k ih =>
    obtain ⟨u, hu, hready, hsame, hnum⟩ := ih
    obtain ⟨w, hw, hmix, -⟩ := genFrame_spec hready
    have hcfg : u.cfg = s.cfg := by rw [hsame]; rfl
    refine ⟨advance w, runInstrs_frames_succ hu hw, (hready.genFrame hw).advance, ?_, ?_⟩
    · rw [hmix, hsame]
      rfl
    · have hstep := positionNumber_advance hready.timing
      rw [hnum, hcfg, Nat.mod_add_mod] at hstep
      simp only [advance, State.setTiming, hmix.cfg, hmix.timing, hcfg]
      rw [hstep, Nat.add_assoc]

/-- Settles O15: by induction on the frames (`frames_exist`). -/
theorem framesMovePositionByOne : Obligations.FramesMovePositionByOne := by
  intro s g h
  obtain ⟨u, hu, -, hsame, hnum⟩ := frames_exist (Inv.mixReady h) g
  exact ⟨u, hu, hnum, hsame⟩

/-! ### A machine in step with the stream -/

/-- The states agree in all that a frame works on. -/
structure SameFrame (v u : State) : Prop where
  cfg : v.cfg = u.cfg
  timing : v.timing = u.timing
  voices : v.voices = u.voices
  accL : v.accL = u.accL
  accR : v.accR = u.accR
  tmp : v.tmp = u.tmp

theorem SameFrame.transplant {v u : State} (h : SameFrame v u) : transplant v u = v := by
  simp only [Machine.transplant, ← h.timing, ← h.voices, ← h.accL, ← h.accR, ← h.tmp]

theorem SameFrame.mixReady {v u : State} (h : SameFrame v u) (hu : MixReady u) : MixReady v :=
  ⟨h.cfg ▸ hu.cfgWf, h.cfg ▸ h.timing ▸ hu.timing, by rw [h.cfg, h.voices]; exact hu.voicesStatic,
    by rw [h.cfg, h.voices]; exact hu.posInTable⟩

theorem SameFrame.trans {v u w : State} (h : SameFrame v u) (g : SameFrame u w) : SameFrame v w :=
  ⟨h.cfg.trans g.cfg, h.timing.trans g.timing, h.voices.trans g.voices, h.accL.trans g.accL, h.accR.trans g.accR,
    h.tmp.trans g.tmp⟩

/-- `v` is where k generated frames leave the machine, whatever RING, its indices and the device hold. -/
structure InStep (s : State) (k : Nat) (v : State) : Prop where
  ready : MixReady v
  frame : ∃ u, runInstrs (framesTrace k) s = .next u ∧ MixReady u ∧ SameFrame v u

theorem InStep.start {s : State} (h : MixReady s) : InStep s 0 s := ⟨h, s, rfl, h, rfl, rfl, rfl, rfl, rfl, rfl⟩

theorem InStep.of_sameFrame {s v v' : State} {k : Nat} (h : InStep s k v) (hv : SameFrame v' v) : InStep s k v' := by
  obtain ⟨u, hu, hready, hsame⟩ := h.frame
  exact ⟨hv.mixReady h.ready, u, hu, hready, hv.trans hsame⟩

/-- A machine in step produces the stream's next word (R211, R222). -/
theorem InStep.produceFrame {s v : State} {k f : Nat} (h : InStep s k v)
    (hr : ringInRange v.cfg v.filling f = true) :
    ∃ w v', Generates s k w ∧ produceFrame f v = .next v' ∧ InStep s (k + 1) v' ∧
      v'.ring = v.ring.write (ringIndex v.cfg v.filling f) w := by
  obtain ⟨u, hu, hready, hsame⟩ := h.frame
  obtain ⟨w, hw, hmix, -⟩ := genFrame_spec hready
  have hv : genFrame v = .next (transplant v w) := by
    have := genFrame_transplant hsame.cfg hw
    rwa [hsame.transplant] at this
  have hcfg : v.cfg = w.cfg := hsame.cfg.trans hmix.cfg.symm
  have hnext : SameFrame (advance ((transplant v w).setRing (v.ring.write (ringIndex v.cfg v.filling f) w.tmp.frame)))
      (advance w) := ⟨hcfg, congrArg w.timing.advance hcfg, rfl, rfl, rfl, rfl⟩
  have hready' := (hready.genFrame hw).advance
  exact ⟨w.tmp.frame, _, generates_of_frames hu hw, produceFrame_eq_next.mpr ⟨_, hv, hr, rfl⟩,
    ⟨hnext.mixReady hready', _, runInstrs_frames_succ hu hw, hready', hnext⟩, rfl⟩

/-! ### The stream stored in RING -/

theorem RingOk.write {c : Cfg} {r : Ring} (h : RingOk c r) {a : Nat} (ha : a < c.nSlots * c.bufferSize)
    (w : FrameWord) : RingOk c (r.write a w) := by
  refine ⟨Ring.wf_write h.wf a w, fun p hp => ?_⟩
  rcases Ring.mem_write hp with rfl | hp
  · exact ha
  · exact h.inside p hp

/-- The first k words generated from `s` stand in RING from word `base` on, every other word is as in `s`, and the
machine is in step. -/
structure Stored (s : State) (base k : Nat) (v : State) : Prop where
  inStep : InStep s k v
  words : ∀ f < k, ∃ w, Generates s f w ∧ v.ring.read (base + f) = some w
  others : ∀ a, ¬ (base ≤ a ∧ a < base + k) → v.ring.read a = s.ring.read a
  ringOk : RingOk v.cfg v.ring

theorem Stored.start {s : State} (base : Nat) (h : MixReady s) (hring : RingOk s.cfg s.ring) : Stored s base 0 s :=
  ⟨InStep.start h, nofun, fun _ _ => rfl, hring⟩

theorem Stored.of_sameFrame {s v v' : State} {base k : Nat} (h : Stored s base k v) (hv : SameFrame v' v)
    (hring : v'.ring = v.ring) : Stored s base k v' :=
  ⟨h.inStep.of_sameFrame hv, hring ▸ h.words, hring ▸ h.others, hring ▸ hv.cfg ▸ h.ringOk⟩

theorem produceFrame_cfg {f : Nat} {s t : State} (h : produceFrame f s = .next t) : t.cfg = s.cfg := by
  rw [produceFrame_writes h]

/-- The next word goes to the next place (R211, R222). -/
theorem Stored.produceFrame {s v : State} {base k f : Nat} (h : Stored s base k v)
    (hr : ringInRange v.cfg v.filling f = true) (hplace : ringIndex v.cfg v.filling f = base + k) :
    ∃ v', produceFrame f v = .next v' ∧ Stored s base (k + 1) v' := by
  obtain ⟨w, v', hgen, hprod, hstep, hring⟩ := h.inStep.produceFrame hr
  have hlt := ringIndex_lt hr
  rw [hplace] at hring hlt
  refine ⟨v', hprod, hstep, fun g hg => ?_, fun a ha => ?_, ?_⟩
  · rw [hring]
    rcases Nat.lt_succ_iff_lt_or_eq.mp hg with hg | rfl
    · obtain ⟨w', hgen', hread⟩ := h.words g hg
      exact ⟨w', hgen', by rw [Ring.read_write_other _ _ (by omega), hread]⟩
    · exact ⟨w, hgen, Ring.read_write_same _ _ _⟩
  · rw [hring, Ring.read_write_other _ _ (by omega)]
    exact h.others a (by omega)
  · rw [produceFrame_cfg hprod, hring]
    exact h.ringOk.write hlt w

/-! ### PREFILL -/

/-- One slot of PREFILL stores the next B words and moves `filling` on (R222). -/
theorem prefillSlot_stored {s v : State} {slot : Nat} (h : Stored s 0 (slot * v.cfg.bufferSize) v)
    (hfill : v.filling = slot) (hslot : slot < v.cfg.nSlots) :
    ∃ v', prefillSlot v = .next v' ∧ Stored s 0 ((slot + 1) * v.cfg.bufferSize) v' ∧
      v'.filling = nextSlot v.cfg.nSlots slot ∧ v'.cfg = v.cfg := by
  obtain ⟨u, hloop, hu, hufill, hucfg⟩ := forEach_range (body := produceFrame) (n := v.cfg.bufferSize) (s := v)
    (P := fun f u => Stored s 0 (slot * v.cfg.bufferSize + f) u ∧ u.filling = slot ∧ u.cfg = v.cfg)
    (fun f u hf ⟨hu, hufill, hucfg⟩ => by
      have hr : ringInRange u.cfg u.filling f = true := by simp [ringInRange, hufill, hucfg, hslot, hf]
      have hplace : ringIndex u.cfg u.filling f = 0 + (slot * v.cfg.bufferSize + f) := by
        rw [ringIndex, hufill, hucfg, Nat.zero_add]
      obtain ⟨u', hprod, hu'⟩ := hu.produceFrame hr hplace
      refine ⟨u', hprod, hu', ?_, (produceFrame_cfg hprod).trans hucfg⟩
      rw [produceFrame_writes hprod]
      exact hufill) ⟨h, hfill, rfl⟩
  refine ⟨_, prefillSlot_eq_next.mpr ⟨u, hloop, rfl⟩, ?_, by rw [State.setFilling_filling, hucfg, hufill], hucfg⟩
  rw [Nat.succ_mul]
  exact hu.of_sameFrame ⟨rfl, rfl, rfl, rfl, rfl, rfl⟩ rfl

/-- PREFILL stores the first N × B words of the stream in the N × B places of RING and ends with `filling` 0 (R222). -/
theorem prefillRing_stored {s : State} (h : MixReady s) (hring : RingOk s.cfg s.ring) (hfill : s.filling = 0)
    (he : enabled s .prefill = true) :
    ∃ t, prefillRing s = .next t ∧ Stored s 0 (s.cfg.nSlots * s.cfg.bufferSize) t ∧ t.filling = 0 ∧
      t.prefilled = true := by
  obtain ⟨u, hloop, hu, hufill, hucfg⟩ := forEach_range (body := fun _ => prefillSlot) (n := s.cfg.nSlots) (s := s)
    (P := fun slot u => Stored s 0 (slot * s.cfg.bufferSize) u ∧ u.filling = slot % s.cfg.nSlots ∧ u.cfg = s.cfg)
    (fun slot u hslot ⟨hu, hufill, hucfg⟩ => by
      rw [Nat.mod_eq_of_lt hslot] at hufill
      rw [← hucfg] at hu hslot
      obtain ⟨u', hrun, hu', hfill', hcfg'⟩ := prefillSlot_stored hu hufill hslot
      rw [hucfg] at hu' hfill' hcfg'
      exact ⟨u', hrun, hu', hfill', hcfg'⟩)
    ⟨by rw [Nat.zero_mul]; exact Stored.start 0 h hring, by rw [hfill, Nat.zero_mod], rfl⟩
  rw [Nat.mod_self] at hufill
  exact ⟨_, prefillRing_eq_next.mpr ⟨he, u, hloop, rfl⟩, hu.of_sameFrame ⟨rfl, rfl, rfl, rfl, rfl, rfl⟩ rfl, hufill, rfl⟩

/-- Settles O39: PREFILL's two loops walk through the places of RING in order (`prefillRing_stored`), and what it leaves
beside RING is what the frames leave. -/
theorem prefillWritesEverySlot : Obligations.PrefillWritesEverySlot := by
  intro s h hpre hact
  obtain ⟨-, hctl⟩ := inv_iff.mp h
  obtain ⟨t, ht, hstored, hfill, hdone⟩ := prefillRing_stored (Inv.mixReady h) hctl.ringOk (hctl.beforePrefill hpre).1
    (enabled_prefill.mpr ⟨hpre, hact⟩)
  obtain ⟨u, hu, -, hsame⟩ := hstored.inStep.frame
  obtain ⟨u', hu', -, hkeep, -⟩ := frames_exist (Inv.mixReady h) (s.cfg.nSlots * s.cfg.bufferSize)
  obtain rfl : u = u' := Host.Outcome.next.inj (hu.symm.trans hu')
  refine ⟨t, u, ht, hu, ?_, fun g hg => ?_, fun a ha => hstored.others a (by omega)⟩
  · calc t = { s with
          timing := u.timing, voices := u.voices, accL := u.accL, accR := u.accR, tmp := u.tmp,
          ring := t.ring, filling := 0, prefilled := true } := by
          rw [← hsame.timing, ← hsame.voices, ← hsame.accL, ← hsame.accR, ← hsame.tmp, ← hfill, ← hdone]
          exact prefillRing_writes ht
      _ = { u with ring := t.ring, filling := 0, prefilled := true } := by rw [hkeep]; rfl
  · obtain ⟨w, hgen, hread⟩ := hstored.words g hg
    exact ⟨w, hgen, by rwa [Nat.zero_add] at hread⟩

end Sys2Proof.Machine

/-! Every instruction keeps the invariant, and the six steps and FILL complete where they are enabled. -/

namespace Sys2Proof.Machine

open Sys2Proof.Safety

/-! ### The device's side -/

/-- A new place of an active device's cursor. -/
theorem ControlInv.setCursor {s : State} (h : ControlOk s) (hact : s.devActive = true) {p d : Nat}
    (hp : p < s.cfg.nSlots) (hd : d ≤ s.cfg.bufferSize) : ControlOk (s.setCursor p d) :=
  { h with
    playingInRange := hp
    cursorInRange := hd
    cursorIdle := fun hn => Bool.noConfusion (hact.symm.trans hn)
    playingIdle := fun hn => Bool.noConfusion (hact.symm.trans hn) }

theorem nextSlot_lt {c : Cfg} (h : c.wf = true) (slot : Nat) : nextSlot c.nSlots slot < c.nSlots :=
  Nat.mod_lt _ (Nat.lt_of_lt_of_le (Nat.succ_pos 2) (cfgBounds h).nSlots)

theorem inv_completeSlot {s t : State} (h : Inv s) (ht : completeSlot s = .next t) : Inv t := by
  obtain ⟨hdata, hctl⟩ := inv_iff.mp h
  obtain ⟨he, rfl⟩ := completeSlot_eq_next.mp ht
  exact inv_iff.mpr ⟨hdata, hctl.setCursor (enabled_complete.mp he).1 (nextSlot_lt h.cfgWf _) (Nat.zero_le _)⟩

theorem inv_deviceRead {s t : State} (h : Inv s) (ht : deviceRead s = .next t) : Inv t := by
  obtain ⟨hdata, hctl⟩ := inv_iff.mp h
  obtain ⟨he, -, rfl⟩ := deviceRead_eq_next.mp ht
  obtain ⟨hact, hrd⟩ := enabled_devread.mp he
  exact inv_iff.mpr ⟨hdata, hctl.setCursor hact hctl.playingInRange hrd⟩

theorem inv_startDevice {s t : State} (h : Inv s) (ht : startDevice s = .next t) : Inv t := by
  obtain ⟨hdata, hctl⟩ := inv_iff.mp h
  obtain ⟨he, rfl⟩ := startDevice_eq_next.mp ht
  exact inv_iff.mpr ⟨hdata, { hctl with
    playingInRange := nextSlot_lt h.cfgWf _
    cursorInRange := Nat.zero_le _
    cursorIdle := nofun
    playingIdle := nofun
    activePrefilled := fun _ => (enabled_start.mp he).1 }⟩

/-- The device always has a step once it is active: COMPLETE when the slot is read, DEVREAD before (R227). -/
theorem deviceTurn_completes {s : State} (h : Inv s) : ∃ t, deviceTurn s = .next t ∧ Inv t := by
  cases hact : s.devActive with
  | false => exact ⟨s, deviceTurn_eq_next.mpr (.inl ⟨hact, rfl⟩), h⟩
  | true =>
    cases hpend : completionPending s with
    | true =>
      have ht := completeSlot_eq_next.mpr ⟨hpend, rfl⟩
      exact ⟨_, deviceTurn_eq_next.mpr (.inr (.inl ⟨hact, hpend, ht⟩)), inv_completeSlot h ht⟩
    | false =>
      have hne : s.devRd ≠ s.cfg.bufferSize :=
        fun hrd => Bool.noConfusion (hpend.symm.trans (completionPending_iff.mpr ⟨hact, hrd⟩))
      have ht := deviceRead_of_active hact (Nat.lt_of_le_of_ne h.cursorInRange hne) h.playingInRange
      exact ⟨_, deviceTurn_eq_next.mpr (.inr (.inr ⟨hact, hpend, ht⟩)), inv_deviceRead h ht⟩

/-- Any number of device steps may fall into a gap (R212). -/
theorem deviceGap_completes {s : State} (h : Inv s) : ∃ t, deviceGap s = .next t ∧ Inv t := by
  cases hg : s.gaps with
  | nil => exact ⟨s, deviceGap_of_nil hg, h⟩
  | cons n rest =>
    rw [deviceGap_of_cons hg]
    exact forEach_range (P := fun _ => Inv) (fun _ _ _ => deviceTurn_completes) (inv_setGaps h rest)

/-! ### The fill engine's side -/

theorem ControlInv.write {s : State} (h : ControlOk s) {a : Nat} (ha : a < s.cfg.nSlots * s.cfg.bufferSize)
    (w : FrameWord) : ControlOk (s.setRing (s.ring.write a w)) :=
  { h with
    ringOk := h.ringOk.write ha w
    ringWritten := fun hp b hb => by
      by_cases hba : b = a
      · rw [hba, State.setRing_ring, Ring.read_write_same]; rfl
      · rw [State.setRing_ring, Ring.read_write_other _ _ hba]; exact h.ringWritten hp b hb }

/-- Counting a frame of a fill in progress (R211). -/
theorem ControlInv.countFrame {s : State} (hwf : s.cfg.wf = true) (h : ControlOk s) (hp : s.prefilled = true)
    (hw : s.fillState = .writing) : ControlOk (countFrame s) := by
  unfold Machine.countFrame
  split
  · exact { h with
      fillingInRange := nextSlot_lt hwf _
      frameInRange := (cfgBounds hwf).bufferSize
      checkFrame := fun _ => rfl
      beforePrefill := fun hn => Bool.noConfusion (hp.symm.trans hn) }
  · next hlast => exact { h with
      frameInRange := Nat.lt_of_le_of_ne h.frameInRange hlast
      checkFrame := fun hc => FillState.noConfusion (hw.symm.trans hc) }

/-- In WRITING FILLFRM completes and keeps the invariant (R211). -/
theorem fillFrame_completes {s : State} (h : Inv s) (hw : s.fillState = .writing) :
    ∃ t, fillFrame s = .next t ∧ Inv t := by
  obtain ⟨hdata, hctl⟩ := inv_iff.mp h
  obtain ⟨u, -, hsame, hfill⟩ := fillFrame_of_writing h hw
  have hp : s.prefilled = true := (enabled_fillfrm.mp (enabled_fillfrm_of_writing h hw)).1
  refine ⟨_, hfill, inv_iff.mpr ⟨hdata.fillFrame hfill, ?_⟩⟩
  rw [hsame]
  exact ControlInv.countFrame (s := (advance _).setRing _) h.cfgWf
    (hctl.write (ringIndex_lt (ringInRange_fill h)) _) hp hw

theorem inv_fillFrame {s t : State} (h : Inv s) (ht : fillFrame s = .next t) : Inv t := by
  obtain ⟨t', ht', hinv⟩ := fillFrame_completes h (enabled_fillfrm.mp (fillFrame_eq_next.mp ht).1).2
  exact Host.Outcome.next.inj (ht.symm.trans ht') ▸ hinv

/-- The fill begins at frame 0 (R210). -/
theorem inv_beginFill {s : State} (h : Inv s) (hp : s.prefilled = true) : Inv (s.setFill .writing 0) := by
  obtain ⟨hdata, hctl⟩ := inv_iff.mp h
  exact inv_iff.mpr ⟨hdata, { hctl with
    frameInRange := (cfgBounds h.cfgWf).bufferSize
    checkFrame := nofun
    beforePrefill := fun hn => Bool.noConfusion (hp.symm.trans hn) }⟩

theorem inv_fillCheck {s t : State} (h : Inv s) (ht : fillCheck s = .next t) : Inv t := by
  obtain ⟨he, ⟨-, rfl⟩ | ⟨-, rfl⟩⟩ := fillCheck_eq_next.mp ht
  · exact h
  · exact inv_beginFill h (enabled_fillchk.mp he).1

theorem inv_fillSlot {s t : State} (h : Inv s) (ht : fillSlot s = .next t) : Inv t := by
  obtain ⟨he, ⟨-, rfl⟩ | ⟨-, hloop⟩⟩ := fillSlot_eq_next.mp ht
  · exact h
  · refine forEach_keeps (P := Inv) (fun _ u w hu hw => ?_) _ (s.setFill .writing 0) _
      (inv_beginFill h (enabled_fillchk.mp he).1) hloop
    obtain ⟨v, hgap, hfrm⟩ := gapThenFrame_eq_next.mp hw
    obtain ⟨v', hgap', hinv⟩ := deviceGap_completes hu
    exact inv_fillFrame (Host.Outcome.next.inj (hgap.symm.trans hgap') ▸ hinv) hfrm

/-- Where PREFILL is enabled it completes, and after it every word of RING has been written (R222, R272). -/
theorem prefillRing_completes {s : State} (h : Inv s) (he : enabled s .prefill = true) :
    ∃ t, prefillRing s = .next t ∧ Inv t := by
  obtain ⟨hdata, hctl⟩ := inv_iff.mp h
  obtain ⟨hfill, hcheck⟩ := h.beforePrefill (enabled_prefill.mp he).1
  obtain ⟨t, ht, hstored, hfill', hpre⟩ := prefillRing_stored hdata.mixReady hctl.ringOk hfill he
  have hwritten : ∀ a < s.cfg.nSlots * s.cfg.bufferSize, (t.ring.read a).isSome := by
    intro a ha
    obtain ⟨w, -, hread⟩ := hstored.words a ha
    rw [Nat.zero_add] at hread
    rw [hread]; rfl
  refine ⟨t, ht, inv_iff.mpr ⟨hdata.prefillRing ht, ?_⟩⟩
  have hctl' : ControlInv s.cfg s.playing 0 s.fillState s.frameIdx s.devActive s.devRd true t.ring :=
    { hctl with
      fillingInRange := hfill ▸ hctl.fillingInRange
      activePrefilled := fun _ => rfl
      beforePrefill := nofun
      ringOk := prefillRing_writes ht ▸ hstored.ringOk
      ringWritten := fun _ => hwritten }
  rw [← hfill', ← hpre] at hctl'
  rw [prefillRing_writes ht]
  exact hctl'

theorem inv_prefillRing {s t : State} (h : Inv s) (ht : prefillRing s = .next t) : Inv t := by
  obtain ⟨t', ht', hinv⟩ := prefillRing_completes h (prefillRing_eq_next.mp ht).1
  exact Host.Outcome.next.inj (ht.symm.trans ht') ▸ hinv

/-! ### Every instruction -/

/-- Every instruction keeps the invariant: those of the data path do not write the ring controller's half. -/
theorem exec_keeps_inv {i : Instr} {s t : State} (h : Inv s) (ht : exec i s = .next t) : Inv t := by
  obtain ⟨hdata, hctl⟩ := inv_iff.mp h
  cases i with
  | reset => cases ht; exact inv_resetBlock h.cfgWf
  | fillchk => exact inv_fillCheck h ht
  | fillfrm => exact inv_fillFrame h ht
  | fill => exact inv_fillSlot h ht
  | complete => exact inv_completeSlot h ht
  | devread => exact inv_deviceRead h ht
  | prefill => exact inv_prefillRing h ht
  | start => exact inv_startDevice h ht
  | _ =>
    refine inv_iff.mpr ⟨hdata.exec ht, ?_⟩
    rw [exec_writes ht]
    exact hctl

theorem runInstrs_keeps_inv {is : List Instr} {s t : State} (h : Inv s) (ht : runInstrs is s = .next t) : Inv t := by
  induction is generalizing s with
  | nil => cases ht; exact h
  | cons i is ih =>
    obtain ⟨u, hu, ht⟩ := runInstrs_cons_eq_next.mp ht
    exact ih (exec_keeps_inv h hu) ht

/-- Settles O53: a step runs one instruction, and the schedule it writes first is no part of the invariant. -/
theorem stepKeepsInv : Obligations.StepKeepsInv := by
  intro s t h ht
  obtain ⟨i, cmds, turn, hi⟩ := step_eq_next ht
  exact exec_keeps_inv (inv_setSchedule h cmds turn) hi

/-! ### FILL frame by frame -/

theorem deviceGap_sameFrame {s t : State} (h : deviceGap s = .next t) : SameFrame t s := by
  rw [deviceGap_keeps h]
  exact ⟨rfl, rfl, rfl, rfl, rfl, rfl⟩

/-- FILLFRM is one produced frame, counted: at the last frame of the slot the engine moves on to CHECK (R211). -/
theorem fillFrame_counts {s t : State} (h : fillFrame s = .next t) :
    ∃ u, produceFrame s.frameIdx s = .next u ∧ SameFrame t u ∧ t.ring = u.ring ∧
      t.filling = (if s.frameIdx + 1 = s.cfg.bufferSize then (s.filling + 1) % s.cfg.nSlots else s.filling) ∧
      t.fillState = (if s.frameIdx + 1 = s.cfg.bufferSize then .check else .writing) ∧
      t.frameIdx = if s.frameIdx + 1 = s.cfg.bufferSize then 0 else s.frameIdx + 1 := by
  obtain ⟨he, u, hprod, rfl⟩ := fillFrame_eq_next.mp h
  have hu := produceFrame_writes hprod
  have hw : u.fillState = .writing := by rw [hu]; exact (enabled_fillfrm.mp he).2
  have hidx : u.frameIdx = s.frameIdx := by rw [hu]
  have hfill : u.filling = s.filling := by rw [hu]
  rw [countFrame_of_writing hw, produceFrame_cfg hprod, hidx, hfill]
  exact ⟨u, hprod, ⟨(produceFrame_cfg hprod).symm, rfl, rfl, rfl, rfl, rfl⟩, rfl, rfl, rfl, rfl⟩

/-- The state after k frames of a FILL begun in `s`, whatever device steps fell between them: the k words stand in the slot
`filling`, and the fill micro-state counts them (R212). -/
structure Filling (s : State) (k : Nat) (v : State) : Prop where
  inv : Inv v
  stored : Stored s (s.filling * s.cfg.bufferSize) k v
  cfg : v.cfg = s.cfg
  filling : v.filling = if k < s.cfg.bufferSize then s.filling else nextSlot s.cfg.nSlots s.filling
  fillState : v.fillState = if k < s.cfg.bufferSize then .writing else .check
  frameIdx : v.frameIdx = if k < s.cfg.bufferSize then k else 0
  gaps : v.gaps = s.gaps.drop k

theorem Filling.start {s : State} (h : Inv s) (hp : s.prefilled = true) : Filling s 0 (s.setFill .writing 0) := by
  have hB : 0 < s.cfg.bufferSize := (cfgBounds h.cfgWf).bufferSize
  have hring : RingOk s.cfg s.ring := (inv_iff.mp h).2.ringOk
  refine ⟨inv_beginFill h hp, ?_, rfl, (if_pos hB).symm, (if_pos hB).symm, (if_pos hB).symm, List.drop_zero.symm⟩
  exact (Stored.start _ (Inv.mixReady h) hring).of_sameFrame ⟨rfl, rfl, rfl, rfl, rfl, rfl⟩ rfl

/-- A gap and a frame: the device steps leave the fill alone, and the frame goes to the next place (R211, R212). -/
theorem Filling.next {s v : State} {k : Nat} (h : Filling s k v) (hk : k < s.cfg.bufferSize) :
    ∃ v', gapThenFrame v = .next v' ∧ Filling s (k + 1) v' := by
  obtain ⟨hinv, hstored, hcfg, hfill, hfs, hidx, hgaps⟩ := h
  rw [if_pos hk] at hfill hfs hidx
  obtain ⟨g, hgap, hg⟩ := deviceGap_completes hinv
  have hkeep := deviceGap_keeps hgap
  have hgring : g.ring = v.ring := by rw [hkeep]
  have hgcfg : g.cfg = s.cfg := by rw [hkeep]; exact hcfg
  have hgfill : g.filling = s.filling := by rw [hkeep]; exact hfill
  have hgfs : g.fillState = .writing := by rw [hkeep]; exact hfs
  have hgidx : g.frameIdx = k := by rw [hkeep]; exact hidx
  have hggaps : g.gaps = s.gaps.drop (k + 1) := by rw [hkeep, ← List.tail_drop, ← hgaps]
  have hgstored := hstored.of_sameFrame (deviceGap_sameFrame hgap) hgring
  have hplace : ringIndex g.cfg g.filling g.frameIdx = s.filling * s.cfg.bufferSize + k := by
    rw [ringIndex, hgcfg, hgfill, hgidx]
  obtain ⟨t, hfrm, ht⟩ := fillFrame_completes hg hgfs
  obtain ⟨u, hprod, hsame, hring, hfill', hfs', hidx'⟩ := fillFrame_counts hfrm
  obtain ⟨u', hprod', hustored⟩ := hgstored.produceFrame (ringInRange_fill hg) hplace
  obtain rfl : u = u' := Host.Outcome.next.inj (hprod.symm.trans hprod')
  have hlast : k + 1 = s.cfg.bufferSize ↔ ¬ k + 1 < s.cfg.bufferSize := by omega
  simp only [hgcfg, hgfill, hgidx, hlast, ite_not] at hfill' hfs' hidx'
  refine ⟨t, gapThenFrame_eq_next.mpr ⟨g, hgap, hfrm⟩, ht, hustored.of_sameFrame hsame hring, ?_, hfill', hfs', hidx', ?_⟩
  · rw [fillFrame_writes hfrm]; exact hgcfg
  · rw [fillFrame_writes hfrm]; exact hggaps

/-- FILL with a slot free completes, and BUFFER_SIZE frames of it have been written (R212). -/
theorem fillSlot_spec {s : State} (h : Inv s) (he : enabled s .fillchk = true) (hfree : s.filling ≠ s.playing) :
    ∃ t, fillSlot s = .next t ∧ Filling s s.cfg.bufferSize t := by
  obtain ⟨t, hloop, ht⟩ := forEach_range (body := fun _ => gapThenFrame) (n := s.cfg.bufferSize)
    (P := Filling s) (fun k v hk hv => hv.next hk) (Filling.start h (enabled_fillchk.mp he).1)
  exact ⟨t, fillSlot_eq_next.mpr ⟨he, .inr ⟨hfree, hloop⟩⟩, ht⟩

theorem fillSlot_completes {s : State} (h : Inv s) (he : enabled s .fillchk = true) : ∃ t, fillSlot s = .next t := by
  by_cases hfull : s.filling = s.playing
  · exact ⟨s, fillSlot_eq_next.mpr ⟨he, .inl ⟨hfull, rfl⟩⟩⟩
  · obtain ⟨t, ht, -⟩ := fillSlot_spec h he hfull
    exact ⟨t, ht⟩

/-! ### Every enabled instruction completes -/

theorem fillCheck_completes {s : State} (he : enabled s .fillchk = true) : ∃ t, fillCheck s = .next t := by
  by_cases hfull : s.filling = s.playing
  · exact ⟨s, fillCheck_eq_next.mpr ⟨he, .inl ⟨hfull, rfl⟩⟩⟩
  · exact ⟨_, fillCheck_eq_next.mpr ⟨he, .inr ⟨hfull, rfl⟩⟩⟩

theorem voiceStep_completes {s : State} (h : MixReady s) {v : Nat} {x : Voice} (hx : s.voices[v]? = some x) :
    ∃ t, voiceStep v s = .next t := by
  have hk := (voice_bounds h (List.mem_of_getElem? hx)).2.2
  exact ⟨_, voiceStep_of_table hx (List.getElem?_eq_getElem hk)⟩

/-- An instruction whose voice exists and whose step is enabled answers a next state (R240). -/
theorem exec_completes {i : Instr} {s : State} (h : Inv s) (hwf : i.wf s.cfg.nVoices = true)
    (hrun : runnable s i = true) : ∃ t, exec i s = .next t := by
  have hready : MixReady s := Inv.mixReady h
  cases i with
  | nohit v | reset | tickq | advance | accclr | accadd | pack => exact ⟨_, rfl⟩
  | hit1 v | hit2 v | hit3 v | hit4 v | hit5 v | hit6 v | hit7 v | hit8 v | hit9 v =>
    obtain ⟨x, hx⟩ := hready.voice (of_decide_eq_true hwf)
    exact ⟨_, trigger_of_voice hx⟩
  | trigscan => exact ⟨_, trigScan_spec hready.cfgWf hready.timing hready.voiceCount⟩
  | vfetch v =>
    obtain ⟨x, hx⟩ := hready.voice (of_decide_eq_true hwf)
    obtain ⟨e, he⟩ := readSample_exists hready (List.mem_of_getElem? hx)
    exact ⟨_, voiceFetch_eq_next.mpr ⟨x, e, hx, he, rfl⟩⟩
  | vstep v =>
    obtain ⟨x, hx⟩ := hready.voice (of_decide_eq_true hwf)
    exact voiceStep_completes hready hx
  | gain v =>
    obtain ⟨x, hx⟩ := hready.voice (of_decide_eq_true hwf)
    exact ⟨_, voiceGain_eq_next.mpr ⟨x, hx, rfl⟩⟩
  | panmul v =>
    obtain ⟨x, hx⟩ := hready.voice (of_decide_eq_true hwf)
    exact ⟨_, panMul_eq_next.mpr ⟨x, hx, rfl⟩⟩
  | mixv v =>
    obtain ⟨x, hx⟩ := hready.voice (of_decide_eq_true hwf)
    exact ⟨_, (hready.mixVoice hx).1⟩
  | genframe =>
    obtain ⟨t, ht, -⟩ := genFrame_spec hready
    exact ⟨t, ht⟩
  | fillchk => exact fillCheck_completes hrun
  | fillfrm =>
    obtain ⟨t, ht, -⟩ := fillFrame_completes h (enabled_fillfrm.mp hrun).2
    exact ⟨t, ht⟩
  | fill => exact fillSlot_completes h hrun
  | complete => exact ⟨_, completeSlot_eq_next.mpr ⟨hrun, rfl⟩⟩
  | devread =>
    obtain ⟨hact, hrd⟩ := enabled_devread.mp hrun
    exact ⟨_, deviceRead_of_active hact hrd h.playingInRange⟩
  | prefill =>
    obtain ⟨t, ht, -⟩ := prefillRing_completes h hrun
    exact ⟨t, ht⟩
  | start => exact ⟨_, startDevice_eq_next.mpr ⟨hrun, rfl⟩⟩

/-- Settles O55. -/
theorem enabledInstrCompletes : Obligations.EnabledInstrCompletes :=
  fun _ _ => exec_completes

/-- The machine's own next step has no voice operand and is enabled: the boot order's, then one of the fill engine in its
state, or the device's (R213, R227, R271). -/
theorem ownStep_enabled {s : State} (h : Inv s) :
    (ownStep s).wf s.cfg.nVoices = true ∧ runnable s (ownStep s) = true := by
  unfold ownStep
  cases hp : s.prefilled with
  | false =>
    have hact : s.devActive = false := by
      by_contra hact
      have := h.activePrefilled (Bool.not_eq_false _ ▸ hact)
      rw [hp] at this
      cases this
    exact ⟨rfl, enabled_prefill.mpr ⟨hp, hact⟩⟩
  | true =>
    cases hact : s.devActive with
    | false => exact ⟨rfl, enabled_start.mpr ⟨hp, hact⟩⟩
    | true =>
      simp only [Bool.not_true, Bool.false_eq_true, if_false]
      cases Config.schedule s.turn with
      | fillEngine =>
        cases hf : s.fillState with
        | check => simp only [fillEngineStep, hf]; exact ⟨rfl, enabled_fillchk.mpr ⟨hp, hf⟩⟩
        | writing => simp only [fillEngineStep, hf]; exact ⟨rfl, enabled_fillfrm.mpr ⟨hp, hf⟩⟩
      | outputDevice =>
        simp only [outputDeviceStep]
        split
        · next hpend => exact ⟨rfl, hpend⟩
        · next hpend =>
          have hne : s.devRd ≠ s.cfg.bufferSize := fun hrd => hpend (completionPending_iff.mpr ⟨hact, hrd⟩)
          exact ⟨rfl, enabled_devread.mpr ⟨hact, Nat.lt_of_le_of_ne h.cursorInRange hne⟩⟩

/-- Settles O54: the machine's own step is enabled, so it completes, keeps the invariant and schedules nothing. -/
theorem ownStepNeverStops : Obligations.OwnStepNeverStops := by
  intro s h hcmds
  have h' : Inv (s.setSchedule [] (s.turn + 1)) := inv_setSchedule h _ _
  obtain ⟨hwf, hrun⟩ := ownStep_enabled h
  obtain ⟨t, ht⟩ := exec_completes h' hwf hrun
  refine ⟨t, ?_, exec_keeps_inv h' ht, (exec_schedule ht).1⟩
  rw [step_of_unscheduled h.cfgWf hcmds]
  exact ht

end Sys2Proof.Machine

/-! The obligations about FILL, a run of its parts with device steps between them, and the boot sequence. -/

namespace Sys2Proof.Machine

open Sys2Proof.Safety

/-! ### A run of FILL's parts is a run of FILL -/

theorem forEach_const_map {f : State → Result} (g : Nat → Nat) (xs : List Nat) (s : State) :
    forEach (xs.map g) (fun _ => f) s = forEach xs (fun _ => f) s := by
  induction xs generalizing s with
  | nil => rfl
  | cons x xs ih =>
    rw [List.map_cons, forEach_cons, forEach_cons, funext ih]

/-- A loop that does not use its index, unrolled at its first turn. -/
theorem forEach_const_succ (f : State → Result) (n : Nat) (s : State) :
    forEach (List.range (n + 1)) (fun _ => f) s = andThen (f s) (forEach (List.range n) fun _ => f) := by
  rw [List.range_succ_eq_map, forEach_cons, funext (forEach_const_map Nat.succ (List.range n))]

/-- An operation that neither sees nor writes the gaps to come, where it completes. -/
def GapBlind (op : State → Result) : Prop :=
  ∀ (s t : State) (gaps : List Nat), op s = .next t → op (s.setGaps gaps) = .next (t.setGaps gaps)

theorem gapBlind_completeSlot : GapBlind completeSlot := by
  intro s t gaps h
  obtain ⟨he, rfl⟩ := completeSlot_eq_next.mp h
  exact completeSlot_eq_next.mpr ⟨he, rfl⟩

theorem gapBlind_deviceRead : GapBlind deviceRead := by
  intro s t gaps h
  obtain ⟨he, hr, rfl⟩ := deviceRead_eq_next.mp h
  exact deviceRead_eq_next.mpr ⟨he, hr, rfl⟩

theorem gapBlind_genFrame : GapBlind genFrame := by
  intro s t gaps h
  have ht : transplant (s.setGaps gaps) t = t.setGaps gaps := by
    rw [genFrame_sameButMix h]
    rfl
  rw [← ht]
  exact genFrame_transplant (w := s.setGaps gaps) rfl h

theorem countFrame_setGaps (s : State) (gaps : List Nat) : countFrame (s.setGaps gaps) = (countFrame s).setGaps gaps := by
  by_cases hlast : s.frameIdx + 1 = s.cfg.bufferSize
  · have hlast' : (s.setGaps gaps).frameIdx + 1 = (s.setGaps gaps).cfg.bufferSize := hlast
    rw [countFrame, countFrame, if_pos hlast, if_pos hlast']
    rfl
  · have hlast' : ¬ (s.setGaps gaps).frameIdx + 1 = (s.setGaps gaps).cfg.bufferSize := hlast
    rw [countFrame, countFrame, if_neg hlast, if_neg hlast']
    rfl

theorem gapBlind_fillFrame : GapBlind fillFrame := by
  intro s t gaps h
  obtain ⟨he, u, hprod, rfl⟩ := fillFrame_eq_next.mp h
  obtain ⟨w, hgen, hr, rfl⟩ := produceFrame_eq_next.mp hprod
  rw [← countFrame_setGaps]
  exact fillFrame_eq_next.mpr
    ⟨he, _, produceFrame_eq_next.mpr ⟨_, gapBlind_genFrame s w gaps hgen, hr, rfl⟩, rfl⟩

/-- A DEVREAD or COMPLETE that completes is the device's next turn (R227). -/
theorem deviceTurn_of_exec {i : Instr} (hi : i = .devread ∨ i = .complete) {s t : State} (h : exec i s = .next t)
    (gaps : List Nat) : deviceTurn (s.setGaps gaps) = .next (t.setGaps gaps) := by
  obtain rfl | rfl := hi
  · obtain ⟨hact, hrd⟩ := enabled_devread.mp (deviceRead_eq_next.mp h).1
    have hpend : completionPending s = false :=
      Bool.eq_false_iff.mpr fun hp => absurd (completionPending_iff.mp hp).2 (Nat.ne_of_lt hrd)
    exact deviceTurn_eq_next.mpr (.inr (.inr ⟨hact, hpend, gapBlind_deviceRead s t gaps h⟩))
  · have he := (completeSlot_eq_next.mp h).1
    exact deviceTurn_eq_next.mpr
      (.inr (.inl ⟨(enabled_complete.mp he).1, he, gapBlind_completeSlot s t gaps h⟩))

/-- A run of device steps is the turns of one gap. -/
theorem deviceTurns_of_run {d : List Instr} (hd : ∀ i ∈ d, i = .devread ∨ i = .complete) {s t : State}
    (h : runInstrs d s = .next t) (gaps : List Nat) :
    forEach (List.range d.length) (fun _ => deviceTurn) (s.setGaps gaps) = .next (t.setGaps gaps) := by
  induction d generalizing s with
  | nil => cases h; rfl
  | cons i d ih =>
    obtain ⟨u, hi, h⟩ := runInstrs_cons_eq_next.mp h
    rw [List.length_cons, forEach_const_succ, deviceTurn_of_exec (hd i List.mem_cons_self) hi, andThen_next]
    exact ih (fun j hj => hd j (List.mem_cons_of_mem i hj)) h

/-- A run of FILLFRMs, each after some device steps, is FILL's loop with those steps in its gaps (R212). -/
theorem gapLoop_of_run {ds : List (List Instr)} (hds : ∀ d ∈ ds, ∀ i ∈ d, i = .devread ∨ i = .complete)
    {s t : State} (h : runInstrs (ds.flatMap fun d => d ++ [.fillfrm]) s = .next t) :
    forEach (List.range ds.length) (fun _ => gapThenFrame) (s.setGaps (ds.map List.length)) =
      .next (t.setGaps []) := by
  induction ds generalizing s with
  | nil => cases h; rfl
  | cons d ds ih =>
    rw [List.flatMap_cons] at h
    obtain ⟨v, hv, h⟩ := runInstrs_append_eq_next.mp h
    obtain ⟨u, hu, hfrm⟩ := runInstrs_append_eq_next.mp hv
    rw [runInstrs_singleton, exec_fillfrm] at hfrm
    have hgap : deviceGap (s.setGaps ((d :: ds).map List.length)) = .next (u.setGaps (ds.map List.length)) := by
      rw [deviceGap_of_cons (n := d.length) (rest := ds.map List.length) rfl]
      exact deviceTurns_of_run (hds d List.mem_cons_self) hu _
    have hturn := gapThenFrame_eq_next.mpr ⟨_, hgap, gapBlind_fillFrame u v _ hfrm⟩
    rw [List.length_cons, forEach_const_succ, hturn, andThen_next]
    exact ih (fun e he => hds e (List.mem_cons_of_mem d he)) h

/-! ### The obligation about FILL -/

/-- FILL's result, put together from what it may write, the loop's counting and the state the frames leave. -/
theorem fill_result {s t u : State} (ht : fillSlot s = .next t) (hfill : Filling s s.cfg.bufferSize t)
    (hsame : SameFrame t u) (hkeep : u = transplant s u) :
    t = { u with
      ring := t.ring, filling := (s.filling + 1) % s.cfg.nSlots, fillState := .check, frameIdx := 0,
      playing := t.playing, devRd := t.devRd, out := t.out, gaps := s.gaps.drop s.cfg.bufferSize } := by
  obtain ⟨-, -, -, hfilling, hfs, hidx, hgaps⟩ := hfill
  rw [if_neg (lt_irrefl _)] at hfilling hfs hidx
  calc t = { s with
        timing := u.timing, voices := u.voices, accL := u.accL, accR := u.accR, tmp := u.tmp,
        ring := t.ring, filling := nextSlot s.cfg.nSlots s.filling, fillState := .check, frameIdx := 0,
        playing := t.playing, devRd := t.devRd, out := t.out, gaps := s.gaps.drop s.cfg.bufferSize } := by
        rw [← hsame.timing, ← hsame.voices, ← hsame.accL, ← hsame.accR, ← hsame.tmp, ← hfilling, ← hfs, ← hidx, ← hgaps]
        exact fillSlot_writes ht
    _ = _ := by rw [hkeep]; rfl

/-- Settles O38: FILL's loop stores the next BUFFER_SIZE words whatever falls into its gaps (`fillSlot_spec`), and every run
of its parts is such a loop (`gapLoop_of_run`). -/
theorem fillWritesOneSlot : Obligations.FillWritesOneSlot := by
  intro s h hpre hcheck
  have he : enabled s .fillchk = true := enabled_fillchk.mpr ⟨hpre, hcheck⟩
  refine ⟨fun hfull => fillSlot_eq_next.mpr ⟨he, .inl ⟨hfull, rfl⟩⟩, fun hfree => ?_, fun hfree ds t hlen hds hrun => ?_⟩
  · obtain ⟨t, ht, hfill⟩ := fillSlot_spec h he hfree
    obtain ⟨u, hu, -, hsame⟩ := hfill.stored.inStep.frame
    obtain ⟨u', hu', -, hkeep, -⟩ := frames_exist (Inv.mixReady h) s.cfg.bufferSize
    obtain rfl : u = u' := Host.Outcome.next.inj (hu.symm.trans hu')
    refine ⟨t, u, ht, hu, fill_result ht hfill hsame hkeep, fun hgaps => ?_, hfill.stored.words, hfill.stored.others⟩
    obtain ⟨hout, hplay, hrd, -⟩ := fillSlot_device_of_no_gaps hgaps ht
    exact ⟨hplay, hrd, hout⟩
  · obtain ⟨u, hchk, hrun⟩ := runInstrs_cons_eq_next.mp hrun
    obtain ⟨-, ⟨hfull, -⟩ | ⟨-, rfl⟩⟩ := fillCheck_eq_next.mp hchk
    · exact absurd hfull hfree
    · have hloop := gapLoop_of_run hds hrun
      rw [hlen] at hloop
      exact fillSlot_eq_next.mpr ⟨he, .inr ⟨hfree, hloop⟩⟩

/-! ### The boot sequence -/

theorem nextSlot_last {c : Cfg} (h : c.wf = true) : nextSlot c.nSlots (c.nSlots - 1) = 0 := by
  have := (cfgBounds h).nSlots
  rw [nextSlot, Nat.sub_add_cancel (by omega), Nat.mod_self]

/-- The boot table of R272: `t` is `s` after the boot sequence, with the first N × B words of the stream in RING and the
device active at word 0 of slot 0. -/
structure Booted (s t : State) : Prop where
  inv : Inv t
  stored : Stored (resetBlock s) 0 (s.cfg.nSlots * s.cfg.bufferSize) t
  cfg : t.cfg = s.cfg
  filling : t.filling = 0
  playing : t.playing = 0
  fillState : t.fillState = .check
  frameIdx : t.frameIdx = 0
  devActive : t.devActive = true
  devRd : t.devRd = 0
  prefilled : t.prefilled = true
  gaps : t.gaps = s.gaps
  out : t.out = s.out

/-- The boot sequence completes and reaches the boot table (R272). -/
theorem boot_completes {s : State} (h : s.cfg.wf = true) : ∃ t, runInstrs bootTrace s = .next t ∧ Booted s t := by
  have hr : Inv (resetBlock s) := inv_resetBlock h
  have hring : RingOk (resetBlock s).cfg (resetBlock s).ring := (inv_iff.mp hr).2.ringOk
  obtain ⟨p, hp, hstored, hfill, hpre⟩ := prefillRing_stored (s := resetBlock s) (Inv.mixReady hr) hring rfl
    (enabled_prefill.mpr ⟨rfl, rfl⟩)
  have hkeep := prefillRing_writes hp
  have hact : p.devActive = false := by rw [hkeep]; rfl
  have hcfg : p.cfg = s.cfg := by rw [hkeep]; rfl
  have hplay : p.playing = s.cfg.nSlots - 1 := by rw [hkeep]; rfl
  have hstart := startDevice_eq_next.mpr ⟨enabled_start.mpr ⟨hpre, hact⟩, rfl⟩
  have hrun : runInstrs bootTrace s =
      .next ((p.setCursor (nextSlot p.cfg.nSlots p.playing) 0).setDevActive true) :=
    runInstrs_cons_eq_next.mpr ⟨_, exec_reset s, runInstrs_cons_eq_next.mpr ⟨p, hp,
      (runInstrs_singleton _ _).trans hstart⟩⟩
  refine ⟨_, hrun, {
    inv := inv_startDevice (inv_prefillRing hr hp) hstart
    stored := hstored.of_sameFrame ⟨rfl, rfl, rfl, rfl, rfl, rfl⟩ rfl
    cfg := hcfg
    filling := hfill
    playing := ?_
    fillState := by rw [hkeep]; rfl
    frameIdx := by rw [hkeep]; rfl
    devActive := rfl
    devRd := rfl
    prefilled := hpre
    gaps := by rw [hkeep]; rfl
    out := by rw [hkeep]; rfl }⟩
  simp only [State.setDevActive_playing, State.setCursor_playing, hcfg, hplay, nextSlot_last h]

/-- Settles O50. -/
theorem bootReachesTable : Obligations.BootReachesTable := by
  intro s h
  obtain ⟨t, hrun, hboot⟩ := boot_completes h
  obtain ⟨u, hu, -, hsame⟩ := hboot.stored.inStep.frame
  obtain ⟨u', hu', -, -, hnum⟩ := frames_exist (Inv.mixReady (inv_resetBlock h)) (s.cfg.nSlots * s.cfg.bufferSize)
  obtain rfl : u = u' := Host.Outcome.next.inj (hu.symm.trans hu')
  have hzero : positionNumber (resetBlock s).cfg (resetBlock s).timing = 0 := by simp [positionNumber, resetBlock]
  rw [hzero, Nat.zero_add] at hnum
  refine ⟨resetBlock s, t, exec_reset s, hrun, hboot.inv, hboot.filling, hboot.playing, hboot.fillState, hboot.frameIdx,
    hboot.devActive, hboot.devRd, ?_, ⟨u, hu, hsame.voices⟩, fun g hg => ?_⟩
  · rw [hsame.cfg, hsame.timing]
    exact hnum
  · obtain ⟨w, hgen, hread⟩ := hboot.stored.words g hg
    exact ⟨w, hgen, by rwa [Nat.zero_add] at hread⟩

end Sys2Proof.Machine

/-! The obligations about the device: completions do not nest, the words leave RING in the order of its places, the race,
and the starved device. -/

namespace Sys2Proof.Machine

open Sys2Proof.Safety

/-! ### The device's place in RING -/

theorem devicePlace_congr {s t : State} (hcfg : t.cfg = s.cfg) (hplay : t.playing = s.playing)
    (hrd : t.devRd = s.devRd) : devicePlace t = devicePlace s := by
  simp only [devicePlace, streamSlot, hcfg, hplay, hrd]

/-- The place of a word counted on past the end of RING, back inside it. -/
theorem place_mod {N B q i : Nat} (hi : i < B) : (q * B + i) % (N * B) = q % N * B + i := by
  have hdiv : (q * B + i) / B = q := (mul_add_div_mod hi).1
  have hmod : (q * B + i) % B = i := (mul_add_div_mod hi).2
  rw [Nat.mul_comm N B, Nat.mod_mul, hdiv, hmod, Nat.mul_comm B, Nat.add_comm]

/-- The slot a device with a given `playing` streams (R226, log 16). -/
def slotOf (c : Cfg) (playing : Nat) : Nat :=
  if c.streamBeforeAdvance then (playing + c.nSlots - 1) % c.nSlots else playing

theorem streamSlot_eq (s : State) : streamSlot s = slotOf s.cfg s.playing := rfl

/-- When `playing` moves on, so does the slot the device streams, under both settings of the switch. -/
theorem slotOf_add {c : Cfg} (hN : 1 ≤ c.nSlots) (p k : Nat) :
    slotOf c ((p + k) % c.nSlots) = (slotOf c p + k) % c.nSlots := by
  unfold slotOf
  split
  · rw [Nat.add_sub_assoc hN, Nat.add_sub_assoc hN, Nat.mod_add_mod, Nat.mod_add_mod, Nat.add_right_comm]
  · rfl

/-- COMPLETE leaves the device at the same place of the round: the end of a slot is the beginning of the next (R228). -/
theorem devicePlace_complete {s t : State} (hN : 1 ≤ s.cfg.nSlots) (hB : 1 ≤ s.cfg.bufferSize)
    (h : completeSlot s = .next t) :
    devicePlace t % (s.cfg.nSlots * s.cfg.bufferSize) = devicePlace s % (s.cfg.nSlots * s.cfg.bufferSize) := by
  obtain ⟨he, rfl⟩ := completeSlot_eq_next.mp h
  obtain ⟨-, hrd⟩ := enabled_complete.mp he
  have hend : devicePlace s = (streamSlot s + 1) * s.cfg.bufferSize + 0 := by
    rw [devicePlace, ringIndex, hrd, Nat.succ_mul]
    rfl
  rw [hend, place_mod hB, devicePlace, ringIndex, State.setCursor_devRd, State.setCursor_cfg, place_mod hB,
    streamSlot_eq, State.setCursor_cfg, State.setCursor_playing, nextSlot, slotOf_add hN, Nat.mod_mod, ← streamSlot_eq]

theorem devicePlace_read {s t : State} (h : deviceRead s = .next t) : devicePlace t = devicePlace s + 1 := by
  obtain ⟨-, -, rfl⟩ := deviceRead_eq_next.mp h
  rfl

/-! ### Reading on -/

/-- `s` after the device has read k more words of its slot. -/
def afterReads (s : State) (k : Nat) : State :=
  { s with devRd := s.devRd + k, out := s.out ++ (List.range k).map fun i => ringWord s (devicePlace s + i) }

/-- An active device reads to the end of its slot without stopping (R226). -/
theorem devreads_run {s : State} (hact : s.devActive = true) (hp : s.playing < s.cfg.nSlots) {k : Nat}
    (hk : s.devRd + k ≤ s.cfg.bufferSize) :
    runInstrs (List.replicate k .devread) s = .next (afterReads s k) := by
  induction k with
  | zero => simp [runInstrs, afterReads]
  | succ k ih =>
    have hread := deviceRead_of_active (s := afterReads s k) hact (show s.devRd + k < s.cfg.bufferSize by omega) hp
    rw [List.replicate_succ', runInstrs_snoc (ih (by omega)), exec_devread, hread]
    have hplace : devicePlace (afterReads s k) = devicePlace s + k := (Nat.add_assoc _ _ _).symm
    rw [hplace]
    simp only [afterReads, List.range_succ, List.map_append, List.map_singleton, ← List.append_assoc]
    rfl

/-- Between completions the cursor counts the DEVREADs, whatever the fill engine does (R46, R227). -/
theorem devRd_of_run {is : List Instr} (his : ∀ i ∈ is, i = .fillchk ∨ i = .fillfrm ∨ i = .devread) {s t : State}
    (h : runInstrs is s = .next t) :
    t.devRd = s.devRd + is.count .devread ∧ t.devActive = s.devActive ∧ t.cfg = s.cfg := by
  induction is generalizing s with
  | nil => cases h; exact ⟨rfl, rfl, rfl⟩
  | cons i is ih =>
    obtain ⟨u, hi, h⟩ := runInstrs_cons_eq_next.mp h
    obtain ⟨hrd, hact, hcfg⟩ := ih (fun j hj => his j (List.mem_cons_of_mem i hj)) h
    rw [hrd, hact, hcfg, List.count_cons]
    obtain rfl | rfl | rfl := his i List.mem_cons_self
    · rw [exec_writes hi]; exact ⟨rfl, rfl, rfl⟩
    · rw [exec_writes hi]; exact ⟨rfl, rfl, rfl⟩
    · obtain ⟨-, -, rfl⟩ := deviceRead_eq_next.mp hi
      refine ⟨?_, rfl, rfl⟩
      simp only [State.emit_devRd, State.setCursor_devRd, beq_self_eq_true, if_true]
      omega

/-- Settles O44: after a COMPLETE the cursor is 0, and it counts the words read until it meets BUFFER_SIZE. -/
theorem completionsDoNotNest : Obligations.CompletionsDoNotNest := by
  intro s t h ht
  have hinv : Inv t := inv_completeSlot h ht
  obtain ⟨he, hteq⟩ := completeSlot_eq_next.mp ht
  have hact : t.devActive = true := by rw [hteq]; exact (enabled_complete.mp he).1
  have hrd : t.devRd = 0 := by rw [hteq]; rfl
  refine ⟨fun k hk => ⟨afterReads t k, ?_, ?_, fun hlt => ?_⟩, fun is u his hrun => ?_⟩
  · refine devreads_run hact hinv.playingInRange ?_
    rw [hrd, Nat.zero_add, exec_cfg ht]
    exact hk
  · rw [completionPending_iff]
    simp only [afterReads, hact, hrd, true_and, Nat.zero_add, exec_cfg ht]
  · refine (stepsStopWhenNotEnabled (afterReads t k)).2.2.1 (.inr ?_)
    simp only [afterReads, hrd, Nat.zero_add, exec_cfg ht]
    exact Nat.ne_of_lt hlt
  · obtain ⟨hurd, huact, hucfg⟩ := devRd_of_run his hrun
    rw [completionPending_iff, hurd, huact, hucfg, hact, hrd, exec_cfg ht, Nat.zero_add]
    exact and_iff_right rfl

/-! ### The words in the order of the places -/

/-- One step of the agents, FILL with no device step in it: what it emits, and how far the device's place moves (R228). -/
theorem exec_streams {i : Instr} {s t : State} (h : Inv s) (hi : isRunStep i = true) (hg : i = .fill → s.gaps = [])
    (ht : exec i s = .next t) :
    t.out = s.out ++ emits i s ∧
    devicePlace t % (s.cfg.nSlots * s.cfg.bufferSize)
      = (devicePlace s + if i = .devread then 1 else 0) % (s.cfg.nSlots * s.cfg.bufferSize) := by
  have hb := cfgBounds h.cfgWf
  cases i with
  | fillchk | fillfrm =>
    rw [exec_writes ht]
    exact ⟨(List.append_nil _).symm, rfl⟩
  | fill =>
    obtain ⟨hout, hplay, hrd, -⟩ := fillSlot_device_of_no_gaps (hg rfl) ht
    rw [devicePlace_congr (exec_cfg ht) hplay hrd]
    exact ⟨hout.trans (List.append_nil _).symm, rfl⟩
  | complete =>
    refine ⟨?_, devicePlace_complete (by have := hb.nSlots; omega) hb.bufferSize ht⟩
    rw [exec_writes ht]
    exact (List.append_nil _).symm
  | devread =>
    refine ⟨?_, by rw [devicePlace_read ht]; rfl⟩
    obtain ⟨-, -, rfl⟩ := deviceRead_eq_next.mp ht
    rfl
  | _ => cases hi

theorem emits_length (i : Instr) (s : State) : (emits i s).length = if i = .devread then 1 else 0 := by
  unfold emits
  split <;> rfl

theorem gaps_nil_of_exec {i : Instr} {s t : State} (hg : s.gaps = []) (h : exec i s = .next t) : t.gaps = [] := by
  by_cases hi : i = .fill
  · subst hi
    exact (fillSlot_device_of_no_gaps hg h).2.2.2
  · exact (exec_gaps h hi).trans hg

/-- A run of the agents' steps emits its words in order, one for each DEVREAD, and moves the device's place on by their
number (R228). -/
theorem runInstrs_streams {is : List Instr} {s t : State} (h : Inv s) (his : ∀ i ∈ is, isRunStep i = true)
    (hg : .fill ∈ is → s.gaps = []) (ht : runInstrs is s = .next t) :
    t.out = s.out ++ emittedBy is s ∧ (emittedBy is s).length = is.count .devread ∧
    devicePlace t % (s.cfg.nSlots * s.cfg.bufferSize)
      = (devicePlace s + is.count .devread) % (s.cfg.nSlots * s.cfg.bufferSize) := by
  induction is generalizing s with
  | nil => cases ht; exact ⟨(List.append_nil _).symm, rfl, rfl⟩
  | cons i is ih =>
    obtain ⟨u, hi, ht⟩ := runInstrs_cons_eq_next.mp ht
    have hgi : i = .fill → s.gaps = [] := fun heq => hg (heq ▸ List.mem_cons_self)
    obtain ⟨hout, hplace⟩ := exec_streams h (his i List.mem_cons_self) hgi hi
    obtain ⟨hout', hlen', hplace'⟩ := ih (exec_keeps_inv h hi) (fun j hj => his j (List.mem_cons_of_mem i hj))
      (fun hmem => gaps_nil_of_exec (hg (List.mem_cons_of_mem i hmem)) hi) ht
    have hcount : (i :: is).count .devread = (if i = .devread then 1 else 0) + is.count .devread := by
      rw [List.count_cons, Nat.add_comm]
      simp only [beq_iff_eq]
    rw [exec_cfg hi] at hplace'
    rw [emittedBy_cons hi, hcount]
    refine ⟨by rw [hout', hout, List.append_assoc], by rw [List.length_append, emits_length, hlen'], ?_⟩
    rw [hplace', Nat.add_mod, hplace, ← Nat.add_mod, Nat.add_assoc]

/-- `t` has emitted some words more than `s`, and its device's place is as many on (R228). -/
def StreamsOn (s t : State) : Prop :=
  t.cfg = s.cfg ∧ ∃ ws, t.out = s.out ++ ws ∧ devicePlace t % (s.cfg.nSlots * s.cfg.bufferSize)
    = (devicePlace s + ws.length) % (s.cfg.nSlots * s.cfg.bufferSize)

theorem StreamsOn.of_same {s t : State} (hcfg : t.cfg = s.cfg) (hout : t.out = s.out) (hplay : t.playing = s.playing)
    (hrd : t.devRd = s.devRd) : StreamsOn s t :=
  ⟨hcfg, [], hout.trans (List.append_nil _).symm, by rw [devicePlace_congr hcfg hplay hrd]; rfl⟩

theorem StreamsOn.trans {s u t : State} (h : StreamsOn s u) (g : StreamsOn u t) : StreamsOn s t := by
  obtain ⟨hcfg, ws, hout, hplace⟩ := h
  obtain ⟨hcfg', ws', hout', hplace'⟩ := g
  refine ⟨hcfg'.trans hcfg, ws ++ ws', by rw [hout', hout, List.append_assoc], ?_⟩
  rw [hcfg] at hplace'
  rw [hplace', Nat.add_mod, hplace, ← Nat.add_mod, Nat.add_assoc, List.length_append]

theorem streamsOn_deviceTurn {s t : State} (hN : 1 ≤ s.cfg.nSlots) (hB : 1 ≤ s.cfg.bufferSize)
    (h : deviceTurn s = .next t) : StreamsOn s t := by
  obtain ⟨-, rfl⟩ | ⟨-, -, h⟩ | ⟨-, -, h⟩ := deviceTurn_eq_next.mp h
  · exact .of_same rfl rfl rfl rfl
  · refine ⟨exec_cfg (i := .complete) h, [], ?_, devicePlace_complete hN hB h⟩
    rw [exec_writes (i := .complete) h]
    exact (List.append_nil _).symm
  · obtain ⟨-, -, hteq⟩ := deviceRead_eq_next.mp h
    exact ⟨exec_cfg (i := .devread) h, [ringWord s (devicePlace s)], by rw [hteq]; rfl,
      by rw [devicePlace_read h]; rfl⟩

theorem streamsOn_deviceGap {s t : State} (hN : 1 ≤ s.cfg.nSlots) (hB : 1 ≤ s.cfg.bufferSize)
    (h : deviceGap s = .next t) : StreamsOn s t := by
  cases hg : s.gaps with
  | nil =>
    rw [deviceGap_of_nil hg] at h
    cases h
    exact .of_same rfl rfl rfl rfl
  | cons n rest =>
    rw [deviceGap_of_cons hg] at h
    refine forEach_keeps (P := StreamsOn s) (fun _ u w hu hw => hu.trans (streamsOn_deviceTurn ?_ ?_ hw)) _
      (s.setGaps rest) _ (.of_same rfl rfl rfl rfl) h
    · rw [hu.1]; exact hN
    · rw [hu.1]; exact hB

theorem streamsOn_fillFrame {s t : State} (h : fillFrame s = .next t) : StreamsOn s t := by
  rw [fillFrame_writes h]
  exact .of_same rfl rfl rfl rfl

/-- A FILL with any device steps in it emits what they emit (R212, R228). -/
theorem streamsOn_fillSlot {s t : State} (hN : 1 ≤ s.cfg.nSlots) (hB : 1 ≤ s.cfg.bufferSize)
    (h : fillSlot s = .next t) : StreamsOn s t := by
  obtain ⟨-, ⟨-, rfl⟩ | ⟨-, hloop⟩⟩ := fillSlot_eq_next.mp h
  · exact .of_same rfl rfl rfl rfl
  · refine forEach_keeps (P := StreamsOn s) (fun _ u w hu hw => ?_) _ (s.setFill .writing 0) _
      (.of_same rfl rfl rfl rfl) hloop
    obtain ⟨v, hgap, hfrm⟩ := gapThenFrame_eq_next.mp hw
    have huv := streamsOn_deviceGap (by rw [hu.1]; exact hN) (by rw [hu.1]; exact hB) hgap
    exact (hu.trans huv).trans (streamsOn_fillFrame hfrm)

/-- Settles O45: step by step, then by induction over the run; a FILL with device steps in it through its gaps. -/
theorem deviceStreamsInRingOrder : Obligations.DeviceStreamsInRingOrder := by
  refine ⟨fun i s t h hi hg ht => exec_streams h hi hg ht, fun is s t h his hg ht => runInstrs_streams h his hg ht,
    fun s t h ht => ?_⟩
  have hb := cfgBounds h.cfgWf
  exact (streamsOn_fillSlot (by have := hb.nSlots; omega) hb.bufferSize ht).2

/-! ### Starvation -/

theorem repeatTrace_add (m n : Nat) (is : List Instr) : repeatTrace (m + n) is = repeatTrace m is ++ repeatTrace n is := by
  rw [repeatTrace, List.replicate_add, List.flatten_append]
  rfl

theorem mem_of_mem_repeatTrace {n : Nat} {is : List Instr} {i : Instr} (h : i ∈ repeatTrace n is) : i ∈ is := by
  obtain ⟨js, hjs, hi⟩ := List.mem_flatten.mp h
  exact (List.mem_replicate.mp hjs).2 ▸ hi

/-- The words of k slots from the device's slot on, round RING (R232). -/
def slotWords (s : State) (k : Nat) : List FrameWord :=
  (List.range (k * s.cfg.bufferSize)).map fun i =>
    ringWord s ((ringIndex s.cfg (streamSlot s) 0 + i) % (s.cfg.nSlots * s.cfg.bufferSize))

/-- `s` after k slots have been streamed from word 0 of the device's slot on. -/
def afterSlots (s : State) (k : Nat) : State :=
  { s with playing := (s.playing + k) % s.cfg.nSlots, devRd := 0, out := s.out ++ slotWords s k }

theorem afterSlots_zero {s : State} (hrd : s.devRd = 0) (hp : s.playing < s.cfg.nSlots) : afterSlots s 0 = s := by
  have hnone : slotWords s 0 = [] := by simp [slotWords]
  rw [afterSlots, hnone, List.append_nil, Nat.add_zero, Nat.mod_eq_of_lt hp, ← hrd]

theorem slotWords_succ {s : State} (k : Nat) : slotWords s (k + 1) = slotWords s k ++
    (List.range s.cfg.bufferSize).map fun i => ringWord s ((streamSlot s + k) % s.cfg.nSlots * s.cfg.bufferSize + i) := by
  unfold slotWords
  rw [Nat.succ_mul, List.range_add, List.map_append, List.map_map]
  congr 1
  refine List.map_congr_left fun i hi => ?_
  rw [← place_mod (List.mem_range.mp hi), ringIndex, Function.comp_apply]
  congr 2
  ring

/-- With no step of the fill engine the device streams slot after slot (R232). -/
theorem starvedSlots_run {s : State} (hact : s.devActive = true) (hrd : s.devRd = 0) (hp : s.playing < s.cfg.nSlots)
    (k : Nat) : runInstrs (repeatTrace k (starvedSlot s.cfg)) s = .next (afterSlots s k) := by
  induction k with
  | zero => rw [afterSlots_zero hrd hp]; rfl
  | succ k ih =>
    have hN : 0 < s.cfg.nSlots := by omega
    have hreads := devreads_run (s := afterSlots s k) hact (Nat.mod_lt _ hN) (k := s.cfg.bufferSize)
      (Nat.zero_add _).le
    have hplace : devicePlace (afterSlots s k) = (streamSlot s + k) % s.cfg.nSlots * s.cfg.bufferSize :=
      congrArg (· * s.cfg.bufferSize) (slotOf_add hN s.playing k)
    have hplay : nextSlot s.cfg.nSlots ((s.playing + k) % s.cfg.nSlots) = (s.playing + (k + 1)) % s.cfg.nSlots := by
      rw [nextSlot, Nat.mod_add_mod, Nat.add_assoc]
    have hout : (afterReads (afterSlots s k) s.cfg.bufferSize).out = s.out ++ slotWords s (k + 1) := by
      rw [slotWords_succ, ← List.append_assoc, afterReads, hplace]
      rfl
    have hcomplete : completeSlot (afterReads (afterSlots s k) s.cfg.bufferSize) = .next (afterSlots s (k + 1)) := by
      refine completeSlot_eq_next.mpr ⟨enabled_complete.mpr ⟨hact, Nat.zero_add _⟩, ?_⟩
      rw [afterSlots, ← hplay, ← hout]
      rfl
    rw [repeatTrace_succ, runInstrs_append, ih, andThen_next, starvedSlot, runInstrs_append, hreads, andThen_next,
      runInstrs_singleton]
    exact hcomplete

/-- Settles O47: N slots bring the device back to its slot, so the second round is the first again. -/
theorem starvedDeviceReplaysRing : Obligations.StarvedDeviceReplaysRing := by
  intro s ws h hact hrd hws
  have round : ∀ u : State, u.devActive = true → u.devRd = 0 → u.playing < u.cfg.nSlots →
      runInstrs (repeatTrace u.cfg.nSlots (starvedSlot u.cfg)) u
        = .next { u with out := u.out ++ slotWords u u.cfg.nSlots } := by
    intro u huact hurd hup
    rw [starvedSlots_run huact hurd hup, afterSlots, Nat.add_mod_right, Nat.mod_eq_of_lt hup, ← hurd]
  have hfirst := round s hact hrd h.playingInRange
  have hsecond := round { s with out := s.out ++ slotWords s s.cfg.nSlots } hact hrd h.playingInRange
  obtain rfl : ws = slotWords s s.cfg.nSlots := hws
  refine ⟨hfirst, ?_⟩
  rw [Nat.two_mul, repeatTrace_add, runInstrs_append, hfirst, andThen_next]
  exact hsecond

/-! ### The race -/

theorem mem_starvedSlot {c : Cfg} {i : Instr} (h : i ∈ starvedSlot c) : i = .devread ∨ i = .complete := by
  rcases List.mem_append.mp h with h | h
  · exact .inl (List.mem_replicate.mp h).2
  · exact .inr (List.mem_singleton.mp h)

/-- Settles O46: the device completes slot 0, the fill of slot 0 begins, and the device streams the other N − 1 slots, which
brings `playing` back to 0. -/
theorem raceIsReachable : Obligations.RaceIsReachable := by
  intro c h
  obtain ⟨b, hboot, hbooted⟩ := boot_completes (s := State.resetWith c) h
  have hcfg : b.cfg = c := hbooted.cfg
  have hN := (cfgBounds h).nSlots
  have hp : b.playing < b.cfg.nSlots := hbooted.inv.playingInRange
  have hfirst := starvedSlots_run hbooted.devActive hbooted.devRd hp 1
  have hplay1 : (afterSlots b 1).playing = 1 := by
    show (b.playing + 1) % b.cfg.nSlots = 1
    rw [hbooted.playing, hcfg]
    exact Nat.mod_eq_of_lt (by omega)
  have hchk : fillCheck (afterSlots b 1) = .next ((afterSlots b 1).setFill .writing 0) := by
    refine fillCheck_eq_next.mpr ⟨enabled_fillchk.mpr ⟨hbooted.prefilled, hbooted.fillState⟩, .inr ⟨?_, rfl⟩⟩
    rw [hplay1, show (afterSlots b 1).filling = 0 from hbooted.filling]
    decide
  have hp1 : (afterSlots b 1).playing < b.cfg.nSlots := by rw [hplay1, hcfg]; omega
  have hothers := starvedSlots_run (s := (afterSlots b 1).setFill .writing 0) hbooted.devActive rfl hp1 (c.nSlots - 1)
  have hrun : runInstrs (bootTrace ++ (repeatTrace 1 (starvedSlot b.cfg) ++ .fillchk ::
      repeatTrace (c.nSlots - 1) (starvedSlot b.cfg))) (State.resetWith c)
      = .next (afterSlots ((afterSlots b 1).setFill .writing 0) (c.nSlots - 1)) := by
    rw [runInstrs_append, hboot, andThen_next, runInstrs_append, hfirst, andThen_next, runInstrs, exec_fillchk, hchk,
      andThen_next]
    exact hothers
  refine ⟨_, _, fun i hi => ?_, hrun, runInstrs_keeps_inv (invHoldsAtResetOfEveryCfg c h) hrun, rfl, ?_⟩
  · have hmem : i ∈ starvedSlot b.cfg ∨ i = .fillchk := by
      rcases List.mem_append.mp hi with hi | hi
      · exact .inl (mem_of_mem_repeatTrace hi)
      · rcases List.mem_cons.mp hi with hi | hi
        · exact .inr hi
        · exact .inl (mem_of_mem_repeatTrace hi)
    rcases hmem with hi | rfl
    · rcases mem_starvedSlot hi with rfl | rfl <;> exact ⟨rfl, nofun⟩
    · exact ⟨rfl, nofun⟩
  · show b.filling = ((afterSlots b 1).playing + (c.nSlots - 1)) % b.cfg.nSlots
    rw [hbooted.filling, hplay1, hcfg, Nat.add_sub_cancel' (by omega), Nat.mod_self]

end Sys2Proof.Machine

/-! The obligation about kept-up runs: after boot, with the ring full at every completion, the device emits the generated
stream. -/

namespace Sys2Proof.Machine

open Sys2Proof.Safety

/-! ### The stream depends on the inputs of a frame only -/

theorem frames_sameInputs {s t u : State} (h : SameInputs s t) {k : Nat}
    (hu : runInstrs (framesTrace k) s = .next u) :
    ∃ w, runInstrs (framesTrace k) t = .next w ∧ SameInputs u w := by
  induction k generalizing u with
  | zero => cases hu; exact ⟨t, rfl, h⟩
  | succ k ih =>
    rw [framesTrace_succ] at hu
    obtain ⟨v, hv, hu⟩ := runInstrs_append_eq_next.mp hu
    obtain ⟨g, hg, hu⟩ := runInstrs_cons_eq_next.mp hu
    rw [runInstrs_singleton, exec_advance] at hu
    cases hu
    obtain ⟨v', hv', hsame⟩ := ih hv
    obtain ⟨g', hg', hvoices, -⟩ := genframeReadsOnlyItsInputs v v' g hsame.cfg hsame.timing hsame.voices hg
    have hmix := genFrame_sameButMix hg
    have hmix' := genFrame_sameButMix hg'
    have hcfg : g.cfg = g'.cfg := by rw [hmix.cfg, hmix'.cfg, hsame.cfg]
    have htim : g.timing = g'.timing := by rw [hmix.timing, hmix'.timing, hsame.timing]
    exact ⟨advance g', runInstrs_frames_succ hv' hg', hcfg, by rw [advance_timing, advance_timing, hcfg, htim],
      hvoices.symm⟩

/-- States that agree in what GENFRAME reads generate the same stream (R195). -/
theorem generates_of_sameInputs {s t : State} (h : SameInputs s t) {k : Nat} {w : FrameWord} (hw : Generates s k w) :
    Generates t k w := by
  obtain ⟨u, hu, hword⟩ := hw
  obtain ⟨v, hv, hgen⟩ := runInstrs_append_eq_next.mp hu
  rw [runInstrs_singleton] at hgen
  obtain ⟨v', hv', hsame⟩ := frames_sameInputs h hv
  obtain ⟨u', hu', -, hframe, -⟩ := genframeReadsOnlyItsInputs v v' u hsame.cfg hsame.timing hsame.voices hgen
  exact ⟨u', (runInstrs_snoc hv').trans hu', hframe.trans hword⟩

/-! ### The invariant of a kept-up run -/

/-- A RING of M words holds the M words generated from number m on, each at its place. -/
def RingWindow (s : State) (M m : Nat) (r : Ring) : Prop :=
  ∀ g, m ≤ g → g < M + m → ∃ w, Generates s g w ∧ r.read (g % M) = some w

/-- Writing the next word of the stream at its place moves the window on by one: it replaces the oldest word. -/
theorem RingWindow.write {s : State} {M m : Nat} {r : Ring} (h : RingWindow s M m r) {w : FrameWord}
    (hw : Generates s (M + m) w) : RingWindow s M (m + 1) (r.write (m % M) w) := by
  intro g hlow hhigh
  by_cases hlast : g = M + m
  · subst hlast
    exact ⟨w, hw, by rw [Nat.add_mod_left, Ring.read_write_same]⟩
  · obtain ⟨w', hgen, hread⟩ := h g (by omega) (by omega)
    have hne : g % M ≠ m % M := by
      intro heq
      have hdvd : M ∣ g - m := Nat.dvd_of_mod_eq_zero (Nat.sub_mod_eq_zero_of_mod_eq heq)
      have := Nat.le_of_dvd (by omega) hdvd
      omega
    exact ⟨w', hgen, by rw [Ring.read_write_other _ _ hne, hread]⟩

/-- A kept-up run from boot, in which C slots have been completed and K of them filled again (R230). RING holds the N × B
words generated last, and the device stands at the word generated with the number of words emitted. -/
structure KeptUpAt (s : State) (C K : Nat) (v : State) : Prop where
  inv : Inv v
  setting : v.cfg.streamBeforeAdvance = false
  noGaps : v.gaps = []
  place : v.out.length = C * v.cfg.bufferSize + v.devRd
  playing : v.playing = C % v.cfg.nSlots
  filling : v.filling = K % v.cfg.nSlots
  phase : (K = C ∧ v.fillState = .check) ∨ K + 1 = C
  inStep : InStep s (v.cfg.nSlots * v.cfg.bufferSize + (K * v.cfg.bufferSize + v.frameIdx)) v
  window : RingWindow s (v.cfg.nSlots * v.cfg.bufferSize) (K * v.cfg.bufferSize + v.frameIdx) v.ring
  emitted : ∀ k < v.out.length, ∃ w, v.out[k]? = some w ∧ Generates s k w

/-- Numbers of two neighbouring slots are not the same slot. -/
theorem succ_mod_ne {N K : Nat} (hN : 2 ≤ N) : K % N ≠ (K + 1) % N := by
  have hK : K % N < N := Nat.mod_lt K (by omega)
  rw [← Nat.mod_add_mod K N 1]
  by_cases hlast : K % N + 1 = N
  · rw [hlast, Nat.mod_self]; omega
  · rw [Nat.mod_eq_of_lt (show K % N + 1 < N by omega)]; omega

section

variable {s v t : State} {C K : Nat}

theorem KeptUpAt.two_le_nSlots (h : KeptUpAt s C K v) : 2 ≤ v.cfg.nSlots :=
  Nat.le_of_succ_le (cfgBounds h.inv.cfgWf).nSlots

/-- The ring is full exactly when every completed slot has been filled again. -/
theorem KeptUpAt.full_iff (h : KeptUpAt s C K v) : v.filling = v.playing ↔ K = C := by
  rw [h.filling, h.playing]
  obtain ⟨rfl, -⟩ | rfl := h.phase
  · simp
  · exact ⟨fun heq => absurd heq (succ_mod_ne h.two_le_nSlots), by omega⟩

/-- DEVREAD emits the next word of the stream: it is among those in RING. -/
theorem KeptUpAt.devread (h : KeptUpAt s C K v) (ht : deviceRead v = .next t) : KeptUpAt s C K t := by
  have hinv := inv_deviceRead h.inv ht
  obtain ⟨he, -, rfl⟩ := deviceRead_eq_next.mp ht
  obtain ⟨-, hrd⟩ := enabled_devread.mp he
  have hlow : K * v.cfg.bufferSize + v.frameIdx ≤ v.out.length := by
    rw [h.place]
    obtain ⟨rfl, hcheck⟩ | rfl := h.phase
    · rw [h.inv.checkFrame hcheck]; omega
    · rw [Nat.succ_mul]; have := h.inv.frameInRange; omega
  have hhigh : v.out.length < v.cfg.nSlots * v.cfg.bufferSize + (K * v.cfg.bufferSize + v.frameIdx) := by
    have hslots : 2 * v.cfg.bufferSize ≤ v.cfg.nSlots * v.cfg.bufferSize := Nat.mul_le_mul_right _ h.two_le_nSlots
    rw [h.place]
    obtain ⟨rfl, -⟩ | rfl := h.phase
    · omega
    · rw [Nat.succ_mul]; omega
  obtain ⟨w, hgen, hread⟩ := h.window _ hlow hhigh
  have hplace : ringIndex v.cfg (streamSlot v) v.devRd = v.out.length % (v.cfg.nSlots * v.cfg.bufferSize) := by
    rw [h.place, place_mod hrd, ringIndex, streamSlot, h.setting, h.playing]
    rfl
  have hword : ringWord v (ringIndex v.cfg (streamSlot v) v.devRd) = w := by
    rw [ringWord, hplace, hread]
    rfl
  rw [hword] at hinv ⊢
  refine ⟨hinv, h.setting, h.noGaps, ?_, h.playing, h.filling, h.phase,
    h.inStep.of_sameFrame ⟨rfl, rfl, rfl, rfl, rfl, rfl⟩, h.window, fun k hk => ?_⟩
  · simp only [State.emit_out, State.setCursor_out, List.length_append, List.length_singleton, h.place]
    rfl
  · simp only [State.emit_out, State.setCursor_out, List.length_append, List.length_singleton] at hk ⊢
    by_cases hlast : k = v.out.length
    · exact ⟨w, by rw [hlast, List.getElem?_concat_length], hlast ▸ hgen⟩
    · rw [List.getElem?_append_left (by omega)]
      exact h.emitted k (by omega)

/-- COMPLETE on a full ring: one more slot completed, which the fill engine may fill. -/
theorem KeptUpAt.complete (h : KeptUpAt s C K v) (hfull : v.filling = v.playing) (ht : completeSlot v = .next t) :
    KeptUpAt s (C + 1) K t := by
  have hinv := inv_completeSlot h.inv ht
  obtain ⟨he, rfl⟩ := completeSlot_eq_next.mp ht
  obtain ⟨-, hrd⟩ := enabled_complete.mp he
  refine ⟨hinv, h.setting, h.noGaps, ?_, ?_, h.filling, .inr (by rw [h.full_iff.mp hfull]),
    h.inStep.of_sameFrame ⟨rfl, rfl, rfl, rfl, rfl, rfl⟩, h.window, h.emitted⟩
  · have hplace := h.place
    rw [hrd, ← Nat.succ_mul] at hplace
    exact hplace
  · rw [State.setCursor_playing, h.playing, nextSlot, Nat.mod_add_mod]
    rfl

/-- The fill begins in the slot that has been completed. -/
theorem KeptUpAt.beginFill (h : KeptUpAt s C K v) (he : enabled v .fillchk = true) (hfree : v.filling ≠ v.playing) :
    KeptUpAt s C K (v.setFill .writing 0) := by
  obtain ⟨hpre, hcheck⟩ := enabled_fillchk.mp he
  have hidx : v.frameIdx = 0 := h.inv.checkFrame hcheck
  have hstep := h.inStep
  have hwindow := h.window
  rw [hidx] at hstep hwindow
  exact ⟨inv_beginFill h.inv hpre, h.setting, h.noGaps, h.place, h.playing, h.filling,
    .inr (h.phase.resolve_left fun hc => hfree (h.full_iff.mpr hc.1)),
    hstep.of_sameFrame ⟨rfl, rfl, rfl, rfl, rfl, rfl⟩, hwindow, h.emitted⟩

theorem KeptUpAt.fillchk (h : KeptUpAt s C K v) (ht : fillCheck v = .next t) : KeptUpAt s C K t := by
  obtain ⟨he, ⟨-, rfl⟩ | ⟨hfree, rfl⟩⟩ := fillCheck_eq_next.mp ht
  · exact h
  · exact h.beginFill he hfree

/-- FILLFRM stores the next word of the stream over the oldest; the last frame of the slot fills it again. -/
theorem KeptUpAt.fillfrm (h : KeptUpAt s C K v) (ht : fillFrame v = .next t) : ∃ K', KeptUpAt s C K' t := by
  have hw : v.fillState = .writing := (enabled_fillfrm.mp (fillFrame_eq_next.mp ht).1).2
  have hphase : K + 1 = C := h.phase.resolve_left fun hc => FillState.noConfusion (hw.symm.trans hc.2)
  obtain ⟨u, hprod, hsame, hring, hfill, hfs, hidx⟩ := fillFrame_counts ht
  obtain ⟨w, u', hgen, hprod', hstep, hring'⟩ := h.inStep.produceFrame (ringInRange_fill h.inv)
  obtain rfl : u = u' := Host.Outcome.next.inj (hprod.symm.trans hprod')
  have hplace : ringIndex v.cfg v.filling v.frameIdx =
      (K * v.cfg.bufferSize + v.frameIdx) % (v.cfg.nSlots * v.cfg.bufferSize) := by
    rw [place_mod h.inv.frameInRange, ringIndex, h.filling]
  have hwindow := h.window.write hgen
  rw [← hplace, ← hring', ← hring] at hwindow
  obtain ⟨hcfg, hgaps, hout, hrd, hplay⟩ : t.cfg = v.cfg ∧ t.gaps = v.gaps ∧ t.out = v.out ∧ t.devRd = v.devRd ∧
      t.playing = v.playing := by
    rw [fillFrame_writes ht]
    exact ⟨rfl, rfl, rfl, rfl, rfl⟩
  obtain ⟨K', hphase', hfill', hcount⟩ : ∃ K', ((K' = C ∧ t.fillState = .check) ∨ K' + 1 = C) ∧
      t.filling = K' % v.cfg.nSlots ∧ K' * v.cfg.bufferSize + t.frameIdx = K * v.cfg.bufferSize + v.frameIdx + 1 := by
    by_cases hlast : v.frameIdx + 1 = v.cfg.bufferSize
    · rw [if_pos hlast] at hfill hfs hidx
      refine ⟨K + 1, .inl ⟨hphase, hfs⟩, by rw [hfill, h.filling, Nat.mod_add_mod], ?_⟩
      rw [hidx, Nat.succ_mul]; omega
    · rw [if_neg hlast] at hfill hidx
      exact ⟨K, .inr hphase, hfill.trans h.filling, by rw [hidx, Nat.add_assoc]⟩
  refine ⟨K', inv_fillFrame h.inv ht, ?_, ?_, ?_, ?_, ?_, hphase', ?_, ?_, ?_⟩
  · rw [hcfg]; exact h.setting
  · rw [hgaps]; exact h.noGaps
  · rw [hout, hcfg, hrd]; exact h.place
  · rw [hplay, hcfg]; exact h.playing
  · rw [hcfg]; exact hfill'
  · rw [hcfg, hcount]; exact hstep.of_sameFrame hsame
  · rw [hcfg, hcount]; exact hwindow
  · rw [hout]; exact h.emitted

theorem KeptUpAt.fill (h : KeptUpAt s C K v) (ht : fillSlot v = .next t) : ∃ K', KeptUpAt s C K' t := by
  obtain ⟨he, ⟨-, rfl⟩ | ⟨hfree, hloop⟩⟩ := fillSlot_eq_next.mp ht
  · exact ⟨K, h⟩
  · refine forEach_keeps (P := fun u => ∃ K', KeptUpAt s C K' u) (fun _ u w ⟨K', hu⟩ hw => ?_) _
      (v.setFill .writing 0) _ ⟨K, h.beginFill he hfree⟩ hloop
    rw [gapThenFrame_of_nil hu.noGaps] at hw
    exact hu.fillfrm hw

/-- Every step of a kept-up run keeps its invariant (R230). -/
theorem KeptUpAt.exec (h : KeptUpAt s C K v) {i : Instr} (hi : isRunStep i = true)
    (hkept : i = .complete → v.fillState = .check ∧ v.filling = v.playing) (ht : exec i v = .next t) :
    ∃ C' K', KeptUpAt s C' K' t := by
  cases i with
  | fillchk => exact ⟨C, K, h.fillchk ht⟩
  | fillfrm => exact ⟨C, h.fillfrm ht⟩
  | fill => exact ⟨C, h.fill ht⟩
  | complete => exact ⟨C + 1, K, h.complete (hkept rfl).2 ht⟩
  | devread => exact ⟨C, K, h.devread ht⟩
  | _ => cases hi

end

theorem keptUpAt_of_run {s v t : State} {C K : Nat} (h : KeptUpAt s C K v) {is : List Instr}
    (his : ∀ i ∈ is, isRunStep i = true) (hkept : keptUp is v = true) (ht : runInstrs is v = .next t) :
    ∃ C' K', KeptUpAt s C' K' t := by
  induction is generalizing v C K with
  | nil => cases ht; exact ⟨C, K, h⟩
  | cons i is ih =>
    obtain ⟨u, hi, ht⟩ := runInstrs_cons_eq_next.mp ht
    obtain ⟨hcond, hkept⟩ := (keptUp_cons hi).mp hkept
    obtain ⟨C', K', hu⟩ := h.exec (his i List.mem_cons_self) hcond hi
    exact ih hu (fun j hj => his j (List.mem_cons_of_mem i hj)) hkept ht

/-- After boot nothing has been emitted and RING holds the first N × B words. -/
theorem keptUpAt_boot {c : Cfg} (h : c.wf = true) (hsw : c.streamBeforeAdvance = false) :
    ∃ b, runInstrs bootTrace (State.resetWith c) = .next b ∧ b.out = [] ∧
      KeptUpAt (resetBlock (State.resetWith c)) 0 0 b := by
  obtain ⟨b, hboot, hbooted⟩ := boot_completes (s := State.resetWith c) h
  have hcfg : b.cfg = c := hbooted.cfg
  have hout : b.out = [] := hbooted.out
  refine ⟨b, hboot, hout, hbooted.inv, by rw [hcfg, hsw], hbooted.gaps, ?_, ?_, ?_, .inl ⟨rfl, hbooted.fillState⟩, ?_, ?_,
    ?_⟩
  · rw [hout, hbooted.devRd, Nat.zero_mul]; rfl
  · rw [hbooted.playing, Nat.zero_mod]
  · rw [hbooted.filling, Nat.zero_mod]
  · rw [hbooted.frameIdx, Nat.zero_mul, hcfg]; exact hbooted.stored.inStep
  · rw [hbooted.frameIdx, Nat.zero_mul, Nat.add_zero, hcfg]
    intro g _ hg
    have hg : g < c.nSlots * c.bufferSize := hg
    obtain ⟨w, hgen, hread⟩ := hbooted.stored.words g hg
    exact ⟨w, hgen, by rw [Nat.mod_eq_of_lt hg, ← hread, Nat.zero_add]⟩
  · rw [hout]; exact nofun

/-! ### Kept-up runs of every length -/

theorem keptUp_append {is js : List Instr} {s u : State} (h : runInstrs is s = .next u) :
    keptUp (is ++ js) s = true ↔ keptUp is s = true ∧ keptUp js u = true := by
  induction is generalizing s with
  | nil => cases h; exact (and_iff_right rfl).symm
  | cons i is ih =>
    obtain ⟨v, hi, h⟩ := runInstrs_cons_eq_next.mp h
    rw [List.cons_append, keptUp_cons hi, keptUp_cons hi, ih h, and_assoc]

theorem keptUp_of_no_complete {is : List Instr} (his : ∀ i ∈ is, i ≠ .complete) {s u : State}
    (h : runInstrs is s = .next u) : keptUp is s = true := by
  induction is generalizing s with
  | nil => rfl
  | cons i is ih =>
    obtain ⟨v, hi, h⟩ := runInstrs_cons_eq_next.mp h
    exact (keptUp_cons hi).mpr ⟨fun heq => absurd heq (his i List.mem_cons_self),
      ih (fun j hj => his j (List.mem_cons_of_mem i hj)) h⟩

/-- Between two rounds: n slots emitted, the ring full, the device at word 0. -/
structure RoundStart (c : Cfg) (n : Nat) (v : State) : Prop where
  inv : Inv v
  cfg : v.cfg = c
  active : v.devActive = true
  atStart : v.devRd = 0
  prefilled : v.prefilled = true
  check : v.fillState = .check
  full : v.filling = v.playing
  noGaps : v.gaps = []
  emitted : v.out.length = n * c.bufferSize

/-- One round of streaming a slot, completing it and filling it again completes, kept up, and begins the next (R230). -/
theorem RoundStart.round {c : Cfg} {n : Nat} {v : State} (h : RoundStart c n v) :
    ∃ t, runInstrs (keptUpSlot c) v = .next t ∧ keptUp (keptUpSlot c) v = true ∧ RoundStart c (n + 1) t := by
  obtain ⟨hinv, rfl, hact, hrd, hpre, hcheck, hfull, hgaps, hout⟩ := h
  have hreads := devreads_run hact hinv.playingInRange (k := v.cfg.bufferSize) (by rw [hrd, Nat.zero_add])
  have hread_inv : Inv (afterReads v v.cfg.bufferSize) := runInstrs_keeps_inv hinv hreads
  have hread_all : (afterReads v v.cfg.bufferSize).devRd = v.cfg.bufferSize := by rw [afterReads, hrd, Nat.zero_add]
  have hpend : enabled (afterReads v v.cfg.bufferSize) .complete = true := enabled_complete.mpr ⟨hact, hread_all⟩
  have hcomplete := completeSlot_eq_next.mpr ⟨hpend, rfl⟩
  have hcinv := inv_completeSlot hread_inv hcomplete
  have hfree : v.filling ≠ nextSlot v.cfg.nSlots v.playing := by
    have hne := succ_mod_ne (K := v.playing) (Nat.le_of_succ_le (cfgBounds hinv.cfgWf).nSlots)
    rw [Nat.mod_eq_of_lt hinv.playingInRange] at hne
    rw [hfull]
    exact hne
  have hcgaps : ((afterReads v v.cfg.bufferSize).setCursor (nextSlot v.cfg.nSlots v.playing) 0).gaps = [] := hgaps
  obtain ⟨t, hfill, hspec⟩ := fillSlot_spec hcinv (enabled_fillchk.mpr ⟨hpre, hcheck⟩) hfree
  obtain ⟨htout, htplay, htrd, htgaps⟩ := fillSlot_device_of_no_gaps hcgaps hfill
  have hwrites := fillSlot_writes hfill
  have hrun : runInstrs (keptUpSlot v.cfg) v = .next t := by
    rw [keptUpSlot, runInstrs_append, hreads, andThen_next, runInstrs, exec_complete, hcomplete, andThen_next,
      runInstrs_singleton]
    exact hfill
  refine ⟨t, hrun, ?_, hspec.inv, hspec.cfg, by rw [hwrites]; exact hact, htrd, by rw [hwrites]; exact hpre, ?_, ?_, htgaps,
    ?_⟩
  · refine (keptUp_append hreads).mpr ⟨keptUp_of_no_complete (fun i hi => ?_) hreads, ?_⟩
    · rw [(List.mem_replicate.mp hi).2]; exact nofun
    · exact (keptUp_cons (i := .complete) hcomplete).mpr
        ⟨fun _ => ⟨hcheck, hfull⟩, (keptUp_cons (i := .fill) hfill).mpr ⟨nofun, rfl⟩⟩
  · rw [hspec.fillState]; exact if_neg (lt_irrefl _)
  · rw [hspec.filling, if_neg (lt_irrefl _), htplay]
    exact congrArg (nextSlot v.cfg.nSlots) hfull
  · rw [htout, Nat.succ_mul, ← hout]
    simp only [State.setCursor_out, afterReads, List.length_append, List.length_map, List.length_range]

theorem rounds_run {c : Cfg} {b : State} (h : RoundStart c 0 b) (n : Nat) :
    ∃ t, runInstrs (repeatTrace n (keptUpSlot c)) b = .next t ∧ keptUp (repeatTrace n (keptUpSlot c)) b = true ∧
      RoundStart c n t := by
  induction n with
  | zero => exact ⟨b, rfl, rfl, h⟩
  | succ n ih =>
    obtain ⟨u, hu, hkept, hround⟩ := ih
    obtain ⟨t, ht, hkept', hround'⟩ := hround.round
    rw [repeatTrace_succ]
    exact ⟨t, runInstrs_append_eq_next.mpr ⟨u, hu, ht⟩, (keptUp_append hu).mpr ⟨hkept, hkept'⟩, hround'⟩

theorem roundStart_boot {c : Cfg} (h : c.wf = true) :
    ∃ b, runInstrs bootTrace (State.resetWith c) = .next b ∧ RoundStart c 0 b := by
  obtain ⟨b, hboot, hbooted⟩ := boot_completes (s := State.resetWith c) h
  have hout : b.out = [] := hbooted.out
  exact ⟨b, hboot, hbooted.inv, hbooted.cfg, hbooted.devActive, hbooted.devRd, hbooted.prefilled, hbooted.fillState,
    hbooted.filling.trans hbooted.playing.symm, hbooted.gaps, by rw [hout, Nat.zero_mul]; rfl⟩

/-- Settles O48: the invariant of kept-up runs holds after boot and through every such run (`keptUpAt_of_run`); the rounds
are one (`rounds_run`). The stream from the boot's own RESET is that of the reset state, since frames read neither the
accumulators nor the count of resets. -/
theorem keptUpRunEmitsGeneratedStream : Obligations.KeptUpRunEmitsGeneratedStream := by
  intro c h hsw
  have hinputs : SameInputs (resetBlock (State.resetWith c)) (State.resetWith c) := ⟨rfl, rfl, rfl⟩
  refine ⟨fun is b t hboot his hkept ht => ?_, fun n => ?_⟩
  · obtain ⟨b', hboot', hout, hstart⟩ := keptUpAt_boot h hsw
    obtain rfl : b = b' := Host.Outcome.next.inj (hboot.symm.trans hboot')
    obtain ⟨C, K, hend⟩ := keptUpAt_of_run hstart his hkept ht
    obtain ⟨hwords, hlen, -⟩ := runInstrs_streams hstart.inv his (fun _ => hstart.noGaps) ht
    rw [hout, List.nil_append] at hwords
    refine ⟨by rw [hwords, hlen], fun k hk => ?_⟩
    obtain ⟨w, hget, hgen⟩ := hend.emitted k hk
    exact ⟨w, hget, generates_of_sameInputs hinputs hgen⟩
  · obtain ⟨b, hboot, hstart⟩ := roundStart_boot h
    obtain ⟨t, hrun, hkept, hround⟩ := rounds_run hstart n
    exact ⟨b, t, hboot, hkept, hrun, hround.emitted⟩

end Sys2Proof.Machine
